-- ==== Sys2Proof/Word.lean ====
section
/-! DEFINITION. The words of the block: the 8-, 16- and 32-bit vectors of 00_scope.md R12, the identifier
(10_state.md R26) and the 6-character text (30_encoding.md R102). -/

namespace Sys2Proof

/-- A u8. -/
abbrev Byte := BitVec 8

/-- A u16: a raw sample (30_encoding.md R89). -/
abbrev Half := BitVec 16

/-- A host request word (30_encoding.md R81). -/
abbrev Word := BitVec 32

/-- An identifier: byte 0 the family code, bytes 1..6 the serial number, byte 7 the CRC
(30_encoding.md R88). -/
abbrev Identifier := Vector Byte 8

/-- The text FORMAT returns: exactly six ASCII characters (30_encoding.md R102). -/
abbrev Text := Vector Byte 6

end Sys2Proof
end

