-- ==== Sys2Proof/Config.lean ====
section
/-! DEFINITION. What is fixed for the hardware (00_scope.md R10), the OPEN parameters a model takes as
arguments (92_eei_decisions.md, "Parameters left open"), and the values the spec leaves free, as constants
without a body. -/

namespace Sys2Proof

/-! ### The fixed parameters of 00_scope.md R10 -/

/-- `MAX_DEVICES`, the capacity of the device table. -/
def Config.maxDevices : Nat := 5

/-- `ID_BITS`: search positions are numbered 1..64. -/
def Config.idBits : Nat := 64

/-- `SAMPLE_BITS`. -/
def Config.sampleBits : Nat := 16

/-- `CRC_POLY`, the reflected feedback byte. -/
def Config.crcPoly : Byte := 0x8C

/-- `CRC_INIT` (decision D6). -/
def Config.crcInit : Byte := 0x00

/-- `CMD_SEARCH_ROM`. -/
def Config.cmdSearchRom : Byte := 0xF0

/-- `CMD_MATCH_ROM`. -/
def Config.cmdMatchRom : Byte := 0x55

/-- `CMD_READ_SCRATCHPAD`. -/
def Config.cmdReadScratchpad : Byte := 0xBE

/-- `CMD_CONVERT_T`. -/
def Config.cmdConvertT : Byte := 0x44

/-- `FRAC_DIGIT`, the table "0112334456678899" (decision D13). -/
def Config.fracDigit : Vector Nat 16 := #v[0, 1, 1, 2, 3, 3, 4, 4, 5, 6, 6, 7, 8, 8, 9, 9]

/-- `F_OFFSET_C`: 55 °C in sixteenths. -/
def Config.fOffsetC : Int := 880

/-- `F_MUL`. -/
def Config.fMul : Int := 180

/-- `F_DIV`. -/
def Config.fDiv : Int := 100

/-- `F_SUB`. -/
def Config.fSub : Int := 1072

/-- `T_CONV_MAX`, about 750 ms, in nanoseconds: the host's duty of 70_reset_and_hazards.md R276. -/
def Config.tConvMaxNs : Nat := 750000000

/-! ### The open parameters that some rule of the model reads -/

/-- `PAD`: the fill of the whole-degree field, a space or a zero (decision D14). -/
inductive Pad where
  | space
  | zero
  deriving DecidableEq, Repr

/-- The OPEN parameters of the block and of the reference population (92_eei_decisions.md). They are plain
data in State (log 10), so a statement over all states holds for every value of them. -/
structure Params where
  /-- `SENTINEL` (decision D11): a raw value whose bits 15..11 are not all equal. -/
  sentinel : Half
  /-- `PAD` (decision D14). -/
  pad : Pad
  /-- `SP_POWERON` (decision D26), of the reference population only. -/
  spPowerOn : Half
  deriving DecidableEq, Repr

/-- The defaults every vector of 95_test_vectors.md uses. -/
def Params.default : Params := { sentinel := 0x8000, pad := .space, spPowerOn := 0x0550 }

/-! ### The values the spec leaves free: no body, so nothing can be proved of them -/

/-- The bus population's n-th free draw: the presence value of a reset or the bit of a read slot
(20_memory.md R55, decision D24; log 7). -/
opaque Config.busDraw : Nat → Bool

/-- The n-th free text: six 7-bit ASCII characters, the result of a FORMAT whose whole part is 1000 or more
(44_formatter.md R207, decision D17; log 8). -/
opaque Config.freeText : Nat → Vector (BitVec 7) 6

/-- Byte k of CRC8's operand where the host supplied only the given bytes beside the word: the spec states no
value (30_encoding.md R85; log 9). -/
opaque Config.unsuppliedByte : List Byte → Nat → Byte

/-- `HOST_PORT_PLACEMENT` (decision D22): where the platform puts the host port. No rule depends on it and
nothing reads it (20_memory.md R65; log 11). -/
opaque Config.hostPortPlacement : Nat

end Sys2Proof
end

