-- ==== Sys2Proof/Syntax.lean ====
section
/-! DEFINITION. The instructions: one constructor per row of spec/opcode_table.json (30_encoding.md R81 and
R90), and the encoded forms in which they reach the block. -/

namespace Sys2Proof

/-- FORMAT's unit operand U (30_encoding.md R82). -/
inductive TempUnit where
  | celsius
  | fahrenheit
  deriving DecidableEq, Repr

/-- The instructions: the eight host operations of 30_encoding.md R81, and the four bus commands of R90, which
stand for the frames of R92 to R95 (log 5). -/
inductive Instr where
  /-- OW_RESET, 40_bitlink.md R111. -/
  | owReset
  /-- OW_WRITE_BIT with the bit B, 40_bitlink.md R113. -/
  | owWriteBit (b : Bool)
  /-- OW_READ_BIT, 40_bitlink.md R115. -/
  | owReadBit
  /-- OW_WRITE_BYTE with the byte V, 40_bitlink.md R117. -/
  | owWriteByte (v : Byte)
  /-- CRC8 with its N data bytes, 41_crc8.md R141. -/
  | crc8 (data : List Byte)
  /-- DISCOVER_ALL, 42_enumerator.md R150. -/
  | discoverAll
  /-- SAMPLE_ALL, 43_sampler.md R180. -/
  | sampleAll
  /-- FORMAT with the unit U and the raw sample RAW, 44_formatter.md R200. -/
  | format (unit : TempUnit) (raw : Half)
  /-- The Search ROM frame, 30_encoding.md R92. -/
  | searchRom
  /-- The Match ROM frame, 30_encoding.md R93. -/
  | matchRom
  /-- The Read Scratchpad frame, 30_encoding.md R94. -/
  | readScratchpad
  /-- The Convert T frame, 30_encoding.md R95. -/
  | convertT
  deriving DecidableEq, Repr

/-- The eight host operations by name: what an `OP:` event and a BUS_ABSENT event record. -/
inductive HostOp where
  | owReset
  | owWriteBit
  | owReadBit
  | owWriteByte
  | crc8
  | discoverAll
  | sampleAll
  | format
  deriving DecidableEq, Repr

/-- What a host hands to the block: a request word with the data bytes supplied beside it (30_encoding.md R81, R85).
No host can hand it a bus command or another sub-procedure: none has a request word (R101). -/
structure Request where
  word : Word
  data : List Byte
  deriving DecidableEq, Repr

/-- An encoded instruction: a host request word with the data bytes supplied beside it (30_encoding.md R81 and
R85), or a byte of the second encoding space, the bus commands (30_encoding.md R90). -/
inductive Packet where
  | hostOp (word : Word) (data : List Byte)
  | busCmd (byte : Byte)
  deriving DecidableEq, Repr

/-- A request is read in the first encoding space only (30_encoding.md R81, R101). -/
def Request.packet (q : Request) : Packet := .hostOp q.word q.data

/-- Why a word is refused (60_exceptions.md R236). -/
inductive RefusalReason where
  /-- A word that arrives while `seq = BUSY`. -/
  | busy
  /-- A reserved bit [7:5] is 1. -/
  | reservedBits
  /-- OP is 0x0 or in 0x9..0xF; also a byte that is no bus command (log 6). -/
  | unassignedOp
  /-- A field the selected OP does not use is not 0. -/
  | nonzeroUnusedField
  deriving DecidableEq, Repr

end Sys2Proof
end

