-- ==== Sys2Proof/WellFormed.lean ====
section
/-! DEFINITION. Which instructions a word can stand for. The types of the operands bound all of them but CRC8's
data, whose length is the byte N of the word (30_encoding.md R83, R85). -/

namespace Sys2Proof

/-- CRC8's data is at most 255 bytes long; every other operand is in range by its type. -/
def Instr.wellFormed : Instr → Bool
  | .crc8 data => data.length ≤ 255
  | .owReset | .owWriteBit _ | .owReadBit | .owWriteByte _ | .discoverAll | .sampleAll | .format _ _ => true
  | .searchRom | .matchRom | .readScratchpad | .convertT => true

/-- The number of data bytes a host word asks for: N of CRC8, and none for every other OP (30_encoding.md R83,
R85). -/
def Packet.operandBytes : Packet → Nat
  | .hostOp w _ => if w.extractLsb' 0 4 = 5#4 then (w.extractLsb' 8 8).toNat else 0
  | .busCmd _ => 0

/-- The packet carries exactly the data bytes its word asks for. -/
def Packet.wellFormed : Packet → Bool
  | .hostOp w data => data.length = Packet.operandBytes (.hostOp w data)
  | .busCmd _ => true

end Sys2Proof
end

