-- ==== Sys2Proof/Decode.lean ====
section
/-! DEFINITION. The decoder of 30_encoding.md R98, total on all words, and after it the encoder, written from the
tables of R81, R90 and R99. -/

namespace Sys2Proof

/-! ### Fields (30_encoding.md R81 to R84) -/

/-- OP, `word[3:0]`. -/
def Word.opField (w : Word) : BitVec 4 := w.extractLsb' 0 4

/-- B of OW_WRITE_BIT and U of FORMAT, `word[4]`. -/
def Word.bitField (w : Word) : Bool := w.getLsbD 4

/-- The reserved bits, `word[7:5]`. -/
def Word.reservedField (w : Word) : BitVec 3 := w.extractLsb' 5 3

/-- V of OW_WRITE_BYTE and N of CRC8, `word[15:8]`. -/
def Word.byteField (w : Word) : Byte := w.extractLsb' 8 8

/-- RAW of FORMAT, `word[31:16]`. -/
def Word.rawField (w : Word) : Half := w.extractLsb' 16 16

/-- U: 0 selects Celsius and 1 Fahrenheit (30_encoding.md R82). -/
def unitOfBit (u : Bool) : TempUnit := if u then .fahrenheit else .celsius

/-- The N bytes of CRC8's operand out of those supplied beside the word: `d[0]` first, later bytes than N not
taken, and a byte that was not supplied a free value (30_encoding.md R85; log 9). -/
def crcOperand (n : Nat) (supplied : List Byte) : List Byte :=
  (List.range n).map fun k => supplied.getD k (Config.unsuppliedByte supplied k)

/-! ### Decoding -/

/-- A `require` of 30_encoding.md R98. -/
def require (ok : Bool) (i : Instr) : Except RefusalReason Instr :=
  if ok then .ok i else .error .nonzeroUnusedField

/-- The decode procedure of 30_encoding.md R98 on a host request word. -/
def decodeHostOp (w : Word) (data : List Byte) : Except RefusalReason Instr :=
  if w.reservedField ≠ 0 then .error .reservedBits
  else match w.opField.toNat with
    | 1 => require (w.extractLsb' 4 28 = 0) .owReset
    | 2 => require (w.extractLsb' 5 27 = 0) (.owWriteBit w.bitField)
    | 3 => require (w.extractLsb' 4 28 = 0) .owReadBit
    | 4 => require (w.rawField = 0 ∧ w.bitField = false) (.owWriteByte w.byteField)
    | 5 => require (w.rawField = 0 ∧ w.bitField = false) (.crc8 (crcOperand w.byteField.toNat data))
    | 6 => require (w.extractLsb' 4 28 = 0) .discoverAll
    | 7 => require (w.extractLsb' 4 28 = 0) .sampleAll
    | 8 => require (w.extractLsb' 5 11 = 0) (.format (unitOfBit w.bitField) w.rawField)
    | _ => .error .unassignedOp

/-- The bus commands of 30_encoding.md R90. The block knows no other command byte (R96); one is refused
(log 6). -/
def decodeBusCmd (b : Byte) : Except RefusalReason Instr :=
  if b = Config.cmdSearchRom then .ok .searchRom
  else if b = Config.cmdMatchRom then .ok .matchRom
  else if b = Config.cmdReadScratchpad then .ok .readScratchpad
  else if b = Config.cmdConvertT then .ok .convertT
  else .error .unassignedOp

/-- The decoder of both encoding spaces. -/
def decode : Packet → Except RefusalReason Instr
  | .hostOp w data => decodeHostOp w data
  | .busCmd b => decodeBusCmd b

/-! ### Encoding (30_encoding.md R81, R90, R99) -/

/-- A request word from its fields (30_encoding.md R81). -/
def hostWord (op : BitVec 4) (bit : Bool) (byte : Byte) (raw : Half) : Word :=
  raw ++ (byte ++ (0#3 ++ (BitVec.ofBool bit ++ op)))

/-- U as its bit (30_encoding.md R82). -/
def bitOfUnit : TempUnit → Bool
  | .celsius => false
  | .fahrenheit => true

/-- The encoder. -/
def encode : Instr → Packet
  | .owReset => .hostOp (hostWord 1 false 0 0) []
  | .owWriteBit b => .hostOp (hostWord 2 b 0 0) []
  | .owReadBit => .hostOp (hostWord 3 false 0 0) []
  | .owWriteByte v => .hostOp (hostWord 4 false v 0) []
  | .crc8 data => .hostOp (hostWord 5 false (BitVec.ofNat 8 data.length) 0) data
  | .discoverAll => .hostOp (hostWord 6 false 0 0) []
  | .sampleAll => .hostOp (hostWord 7 false 0 0) []
  | .format u raw => .hostOp (hostWord 8 (bitOfUnit u) 0 raw) []
  | .searchRom => .busCmd Config.cmdSearchRom
  | .matchRom => .busCmd Config.cmdMatchRom
  | .readScratchpad => .busCmd Config.cmdReadScratchpad
  | .convertT => .busCmd Config.cmdConvertT

/-! ### The opcode table's numbering of bits -/

/-- The packet of an instruction whose bits are w, numbered as spec/opcode_table.json numbers them, nbits of
them given and the rest 0: a row of at most 8 bits is a bus command byte; any other is a host word, beside which
stand, from bit 32 on, the N data bytes that word asks for. -/
def packetOfTableWord (nbits w : Nat) : Packet :=
  let bits := w % 2 ^ nbits
  if nbits ≤ 8 then .busCmd (BitVec.ofNat 8 bits)
  else
    let word := BitVec.ofNat 32 bits
    .hostOp word ((List.range (Packet.operandBytes (.hostOp word []))).map
      fun k => BitVec.ofNat 8 (bits / 2 ^ (32 + 8 * k)))

/-- The instruction the decoder reads from the bits of an opcode-table row; none where it refuses. -/
def decodeTableWord (nbits w : Nat) : Option Instr :=
  match decode (packetOfTableWord nbits w) with
  | .ok i => some i
  | .error _ => none

end Sys2Proof
end

