-- ==== Sys2Proof/Machine/Operands.lean ====
section
/-! DEFINITION. What the operands denote: single bits of a word, the bits of a byte in slot order, the bits of an
identifier by search position, the signed value of a raw sample. -/

namespace Sys2Proof.Machine

/-- `v[k] <- d`: bit k of v set to d (00_scope.md R12, R14). -/
def putBit {n : Nat} (v : BitVec n) (k : Nat) (d : Bool) : BitVec n :=
  if d then v ||| (1#n <<< k) else v &&& ~~~(1#n <<< k)

/-- The bits of a byte in slot order, least significant first (20_memory.md R57). -/
def byteBits (v : Byte) : List Bool :=
  [v.getLsbD 0, v.getLsbD 1, v.getLsbD 2, v.getLsbD 3, v.getLsbD 4, v.getLsbD 5, v.getLsbD 6, v.getLsbD 7]

/-- Byte k of an identifier (00_scope.md R14); k is 0..7 in every rule. -/
def idByte (id : Identifier) (k : Nat) : Byte := (id[k]?).getD 0

/-- The bit of an identifier at search position p, 1..64: bit `(p-1) mod 8` of byte `(p-1) div 8` (20_memory.md
R51). -/
def idBit (id : Identifier) (p : Nat) : Bool := (idByte id ((p - 1) / 8)).getLsbD ((p - 1) % 8)

/-- `id.bit(p) <- d` (00_scope.md R14). -/
def setIdBit (id : Identifier) (p : Nat) (d : Bool) : Identifier :=
  id.setIfInBounds ((p - 1) / 8) (putBit (idByte id ((p - 1) / 8)) ((p - 1) % 8) d)

/-- The bits of an identifier in the order Match ROM sends them: bytes 0 to 7, each least significant bit first
(43_sampler.md R182). -/
def idBits (id : Identifier) : List Bool := id.toList.flatMap byteBits

/-- The search key K of 42_enumerator.md R165: search position 1 is its most significant bit. -/
def searchKey (id : Identifier) : Nat :=
  (List.range 64).foldl (fun k i => 2 * k + (idBit id (i + 1)).toNat) 0

/-- The temperature of a raw sample in sixteenths of a degree Celsius: `toInt_s(raw)` (30_encoding.md R89). -/
def rawValue (raw : Half) : Int := raw.toInt

/-- A reading a sensor produces: a 12-bit value sign-extended to 16 bits, so bits 15..11 are all equal
(44_formatter.md R208). -/
def isReading (raw : Half) : Bool := raw.extractLsb' 11 5 = 0 ∨ raw.extractLsb' 11 5 = 31

/-- The constraint on SENTINEL: it lies outside the readings (10_state.md R27). -/
def sentinelOk (p : Params) : Bool := !isReading p.sentinel

/-- The ASCII digit of n, for n in 0..9 (00_scope.md R17). -/
def digit (n : Nat) : Byte := 0x30 + BitVec.ofNat 8 n

end Sys2Proof.Machine
end

