-- ==== Sys2Proof/Machine/State.lean ====
section
/-! DEFINITION. The state of the machine as plain data: the block's record of 10_state.md R20, the observation of
a run (R37, 60_exceptions.md R236), and the other agents of 00_scope.md R9 (the bus population, the host, the
platform). -/

namespace Sys2Proof.Machine

/-- Why the machine stops with a fault. The block has no fault: "No admitted request and no bus answer is without
a meaning" (60_exceptions.md R236). So there is no constructor: nobody raises one, and no step ends in one (safe:
a missing fault could only hide a stop the spec says does not exist). -/
inductive Fault where
  deriving DecidableEq, Repr

/-- Why an instruction has no meaning. A request word the block refuses is not one of these: it is a next state
that records the refusal (60_exceptions.md R236; log 16). -/
inductive Refusal where
  /-- Raised by an arm of exec whose instruction is not modelled yet; no arm raises it now (safe: the machine
  stops where the hardware goes on). -/
  | notModelled (mnemonic : String)
  deriving DecidableEq, Repr

/-! ### The block (10_state.md R20) -/

/-- `pin.dir` (10_state.md R29). -/
inductive Dir where
  /-- IN: the line is released. -/
  | released
  /-- OUT: the line is driven. -/
  | driven
  deriving DecidableEq, Repr

/-- The bus pin (10_state.md R29). -/
structure Pin where
  dir : Dir
  level : Bool
  deriving DecidableEq, Repr

/-- The points of a procedure at which a step can find the block BUSY (10_state.md R30: `pos`; log 2). -/
inductive Pos where
  /-- Position 0: the operation is accepted and has done nothing. -/
  | start
  /-- The loop test of DISCOVER_ALL (42_enumerator.md R152), after at least one pass. -/
  | loopTest
  deriving DecidableEq, Repr

/-- The sequencer (10_state.md R30). The operation is held with its operands. -/
inductive Seq where
  | idle
  | busy (op : Instr) (pos : Pos)
  deriving DecidableEq, Repr

/-- `result` (10_state.md R31; 30_encoding.md R87). -/
inductive Result where
  | noValue
  | bit (b : Bool)
  | byte (v : Byte)
  | count (n : Nat)
  | text (t : Text)
  deriving DecidableEq, Repr

/-- The search registers, the document's SearchState (10_state.md R21 to R25). -/
structure Search where
  idBuf : Identifier
  lastDiscrepancy : Fin 65
  done : Bool
  marker : Fin 65
  p : Fin 65
  deriving DecidableEq, Repr

/-! ### The event trace (10_state.md R37) -/

/-- The phase a BUS_ABSENT of SAMPLE_ALL records (60_exceptions.md R230). -/
inductive Phase where
  | read
  | convert
  deriving DecidableEq, Repr

/-- The outcome events with the information each records (60_exceptions.md R230). -/
inductive OutcomeEvent where
  /-- BUS_ABSENT raised by DISCOVER_ALL. -/
  | busAbsentDiscover
  /-- BUS_ABSENT raised by SAMPLE_ALL. -/
  | busAbsentSample (index : Nat) (phase : Phase)
  /-- SEARCH_ABORT with cause NO_RESPONSE. -/
  | searchAbortNoResponse (position : Nat)
  /-- SEARCH_ABORT with cause CRC. -/
  | searchAbortCrc (computed stored : Byte)
  /-- CAPACITY_EXCEEDED. -/
  | capacityExceeded (count : Nat)
  /-- SENSOR_ABSENT_SENTINEL. -/
  | sensorAbsentSentinel (raw : Half)
  deriving DecidableEq, Repr

/-- An event of the trace (10_state.md R37; 30_encoding.md R100). -/
inductive Event where
  /-- `OP:<mnemonic>`, the start of a host operation. -/
  | op (o : HostOp)
  /-- `RST:p`, a reset transaction. -/
  | rst (p : Bool)
  /-- `W:b`, a write slot. -/
  | w (b : Bool)
  /-- `R:b`, a read slot. -/
  | r (b : Bool)
  /-- `OC:<name>(info)`, an outcome event. -/
  | oc (o : OutcomeEvent)
  deriving DecidableEq, Repr

/-! ### The bus population (20_memory.md R55; 60_exceptions.md R245 to R247) -/

/-- The phase of a search position (60_exceptions.md R246). -/
inductive SearchPhase where
  /-- TRUE: the device sends the true bit. -/
  | trueBit
  /-- COMP: the device sends the complement. -/
  | complement
  /-- DIR: the device takes the direction. -/
  | direction
  deriving DecidableEq, Repr

/-- The protocol state of a reference device (60_exceptions.md R246). -/
inductive DeviceState where
  | romCmd (k : Nat) (acc : Byte)
  | search (p : Nat) (ph : SearchPhase)
  | matching (p : Nat)
  | func (k : Nat) (acc : Byte)
  | readSp (k : Nat)
  | inactive
  deriving DecidableEq, Repr

/-- A reference device (60_exceptions.md R245). -/
structure Device where
  rom : Identifier
  sp : Half
  pending : Bool
  /-- The temperature the next conversion will produce, a 12-bit value; it reads sign-extended (`Device.reading`). -/
  conv : BitVec 12
  st : DeviceState
  deriving DecidableEq, Repr

/-- The line faults that may be set for a test (60_exceptions.md R245). -/
inductive LineFault where
  | noFault
  /-- STUCK_LOW: every presence is 1 and every read is 0. -/
  | stuckLow
  /-- OPEN: the same as no device. -/
  | openLine
  deriving DecidableEq, Repr

/-- Who answers on the bus. -/
inductive Population where
  /-- The normative population: every answer is a free draw (20_memory.md R55). -/
  | oracle
  /-- The reference devices (60_exceptions.md R245 to R259). -/
  | reference (devices : List Device) (fault : LineFault)
  deriving DecidableEq, Repr

/-- A conversion that is to land right after that many further bus transactions, if it is pending then
(60_exceptions.md R255; log 15). -/
structure Landing where
  transactions : Nat
  device : Nat
  deriving DecidableEq, Repr

/-- The bus-population agent. -/
structure Bus where
  /-- Who answers. -/
  population : Population
  /-- Answers fixed in advance, one entry for each reset or read to come; `none` leaves that answer to the population
  (log 7). -/
  script : List (Option Bool)
  /-- How many answers were given (log 7). -/
  draws : Nat
  /-- The conversions that are to land while transactions go on (log 15). -/
  landings : List Landing
  deriving DecidableEq, Repr

/-! ### The host and the platform (60_exceptions.md R240) -/

/-- A move of an agent other than the master, or a frame run by itself (log 4, log 5). -/
inductive Move where
  /-- The host issues a word; as its duty is, it waits until the block is IDLE. -/
  | issue (q : Request)
  /-- The host issues a word likewise, and the moves after this one fall while its operation stands at position 0. -/
  | start (q : Request)
  /-- The host presents a word without waiting: while the block is BUSY it is refused. -/
  | intrude (q : Request)
  /-- No move of the host, the platform or a device: the frame of a bus command byte runs by itself, as an instruction of
  the opcode table, once the block is IDLE (30_encoding.md R90, R101; log 5). -/
  | frame (byte : Byte)
  /-- The platform resets the block now. -/
  | blockReset
  /-- The platform will reset the block when that many further bus transactions are done. -/
  | resetAfter (transactions : Nat)
  /-- The conversion of reference device i lands, if one is pending (60_exceptions.md R255). -/
  | landConversion (device : Nat)
  /-- The conversion of reference device i will land, if one is pending then, when that many further bus transactions
  are done, wherever in an operation that is (60_exceptions.md R255). -/
  | landAfter (transactions device : Nat)
  /-- The population changes, which it may do between host operations (60_exceptions.md R245). -/
  | population (p : Population)
  deriving DecidableEq, Repr

/-! ### The whole -/

/-- The machine's state. -/
structure State where
  /-- The search registers, 10_state.md R21 to R25. -/
  search : Search
  /-- `count`, 10_state.md R26. -/
  count : Fin 6
  /-- `table[0..4]`, 10_state.md R26; what the entries from `count` on hold is the model's (log 27). -/
  table : Vector Identifier 5
  /-- `samples[0..4]`, 10_state.md R27. -/
  samples : Vector Half 5
  /-- `pin.dir` and `pin.level`, 10_state.md R29. -/
  pin : Pin
  /-- `seq`, 10_state.md R30. -/
  seq : Seq
  /-- `result`, 10_state.md R31. -/
  result : Result
  /-- The device index of the frame being addressed: i of 43_sampler.md R180 (log 5). -/
  index : Fin 5
  /-- The event trace, oldest event first, 10_state.md R37. -/
  trace : List Event
  /-- The refusal mark: the reasons of the words refused so far, in order, 60_exceptions.md R236. -/
  refusals : List RefusalReason
  /-- The bus population, 20_memory.md R55. -/
  bus : Bus
  /-- The moves the other agents are still to make, 60_exceptions.md R240 (log 3). -/
  agenda : List Move
  /-- After how many further bus transactions a block reset lands, 70_reset_and_hazards.md R270 (log 13). -/
  pendingReset : Option Nat
  /-- The OPEN parameters, 92_eei_decisions.md (log 10). -/
  params : Params
  /-- How many free texts were drawn (log 8). -/
  free : Nat
  deriving DecidableEq, Repr

/-- The search registers after reset: the spec gives no value (10_state.md R36), and these are the model's
(log 1). -/
def Search.reset : Search :=
  { idBuf := Vector.replicate 8 0, lastDiscrepancy := 0, done := false, marker := 0, p := 1 }

/-- The machine right after reset: the block's fields as 10_state.md R36 gives them (those it leaves unspecified
as log 1 names them), the parameters at their defaults, the free oracle on the bus, and nothing observed or
asked for yet. -/
def State.reset : State where
  search := Search.reset
  count := 0
  table := Vector.replicate 5 (Vector.replicate 8 0)
  samples := Vector.replicate 5 Params.default.sentinel
  pin := { dir := .released, level := false }
  seq := .idle
  result := .noValue
  index := 0
  trace := []
  refusals := []
  bus := { population := .oracle, script := [], draws := 0, landings := [] }
  agenda := []
  pendingReset := none
  params := Params.default
  free := 0

end Sys2Proof.Machine
end

