-- ==== Sys2Proof/Machine/Wire.lean ====
section
/-! DEFINITION. The wire level of the three transactions (40_bitlink.md R110, R112, R114) over the pin interface
(20_memory.md R56): what the pin does, and where the delays stand. Their lengths are in Timing.lean. -/

namespace Sys2Proof.Machine

/-- The delays of the wire programs, each named after its parameter of 40_bitlink.md R125 to R133. -/
inductive Delay where
  /-- `T_RSTL`. -/
  | resetLow
  /-- `T_PDWAIT`. -/
  | presenceWait
  /-- `T_RST_TOTAL - T_RSTL - T_PDWAIT`. -/
  | resetRest
  /-- `T_LOW1`. -/
  | low1
  /-- `T_LOW0`. -/
  | low0
  /-- `T_REC_W`. -/
  | writeRecovery
  /-- `T_LOWR`. -/
  | readLow
  /-- `T_RDV - T_LOWR`. -/
  | readValid
  /-- `T_SLOT_R - T_RDV`. -/
  | readRest
  deriving DecidableEq, Repr

/-- A wire action of the master: the three capabilities of 20_memory.md R56 and the platform's delay, which lasts at
least as long as it is asked for (40_bitlink.md R124; Timing.lean). -/
inductive WireAction where
  | driveLow
  | release
  | sample
  | delay (d : Delay)
  deriving DecidableEq, Repr

/-- The wire program of `BusReset()` (40_bitlink.md R110). -/
def wireReset : List WireAction :=
  [.driveLow, .delay .resetLow, .release, .delay .presenceWait, .sample, .delay .resetRest]

/-- The wire program of `BusWrite(b)` (40_bitlink.md R112). It ends with the recovery; what is left of T_SLOT_W is
waited after it, with no action (log 26). -/
def wireWrite (b : Bool) : List WireAction :=
  [.driveLow, .delay (if b then .low1 else .low0), .release, .delay .writeRecovery]

/-- The wire program of `BusRead()` (40_bitlink.md R114). -/
def wireRead : List WireAction :=
  [.driveLow, .delay .readLow, .release, .delay .readValid, .sample, .delay .readRest]

/-- `PinDriveLow()` and `PinRelease()` (20_memory.md R56); sampling and waiting leave the pin as it is. -/
def Pin.act (p : Pin) : WireAction → Pin
  | .driveLow => { dir := .driven, level := false }
  | .release => { p with dir := .released }
  | .sample => p
  | .delay _ => p

/-- The pin after a wire program. -/
def Pin.run (p : Pin) (prog : List WireAction) : Pin := prog.foldl Pin.act p

/-- The master's contribution to the line: low only while the pin is driven low (20_memory.md R53, R54). -/
def Pin.contribution (p : Pin) : Bool :=
  match p.dir with
  | .released => true
  | .driven => p.level

/-- The wired-AND of the line (20_memory.md R53): high only if every contribution is high. -/
def wiredAnd (contributions : List Bool) : Bool := contributions.all id

end Sys2Proof.Machine
end

