-- ==== Sys2Proof/Machine/Bus.lean ====
section
/-! DEFINITION. The bus-population agent: the free oracle of 20_memory.md R55, and the reference devices of
60_exceptions.md R245 to R259. -/

namespace Sys2Proof.Machine

/-! ### A reference device -/

/-- A device at power-up (60_exceptions.md R246, R247). -/
def Device.powerUp (params : Params) (rom : Identifier) (conv : BitVec 12) : Device :=
  { rom := rom, sp := params.spPowerOn, pending := false, conv := conv, st := .inactive }

/-- On a reset every device waits for a ROM command; a pending conversion stays pending (60_exceptions.md
R248). -/
def Device.reset (d : Device) : Device := { d with st := .romCmd 0 0 }

/-- The bit a device contributes to a slot: its output in a transmitting state, and released otherwise
(60_exceptions.md R249, R252, R256). -/
def Device.output (d : Device) : Bool :=
  match d.st with
  | .search p .trueBit => idBit d.rom p
  | .search p .complement => !idBit d.rom p
  | .readSp k => if k < 16 then d.sp.getLsbD k else true
  | .romCmd _ _ | .search _ .direction | .matching _ | .func _ _ | .inactive => true

/-- The state a ROM command byte selects (60_exceptions.md R250, R251). -/
def romDispatch (acc : Byte) : DeviceState :=
  if acc = Config.cmdSearchRom then .search 1 .trueBit
  else if acc = Config.cmdMatchRom then .matching 1
  else .inactive

/-- A device takes its function command byte; Convert T starts a conversion (60_exceptions.md R254, R255). -/
def Device.funcDispatch (d : Device) (acc : Byte) : Device :=
  if acc = Config.cmdReadScratchpad then { d with st := .readSp 0 }
  else if acc = Config.cmdConvertT then { d with pending := true, st := .inactive }
  else { d with st := .inactive }

/-- A device compares the line with its own bit at position p: it drops out, goes on to `next`, or after the 64th
position is selected (60_exceptions.md R252, R253). -/
def Device.compare (d : Device) (p : Nat) (line : Bool) (next : DeviceState) : Device :=
  if line ≠ idBit d.rom p then { d with st := .inactive }
  else if p < Config.idBits then { d with st := next }
  else { d with st := .func 0 0 }

/-- A device's step in a slot whose line value is given (60_exceptions.md R249 to R256). -/
def Device.slot (d : Device) (line : Bool) : Device :=
  match d.st with
  | .romCmd k acc =>
    if k + 1 = 8 then { d with st := romDispatch (putBit acc k line) }
    else { d with st := .romCmd (k + 1) (putBit acc k line) }
  | .search p .trueBit => { d with st := .search p .complement }
  | .search p .complement => { d with st := .search p .direction }
  | .search p .direction => d.compare p line (.search (p + 1) .trueBit)
  | .matching p => d.compare p line (.matching (p + 1))
  | .func k acc =>
    if k + 1 = 8 then d.funcDispatch (putBit acc k line)
    else { d with st := .func (k + 1) (putBit acc k line) }
  | .readSp k => { d with st := .readSp (k + 1) }
  | .inactive => d

/-- The temperature the next conversion will produce, its 12 bits sign-extended (60_exceptions.md R245). -/
def Device.reading (d : Device) : Half := d.conv.signExtend 16

/-- A pending conversion lands (60_exceptions.md R255). -/
def Device.land (d : Device) : Device :=
  if d.pending then { d with sp := d.reading, pending := false } else d

/-! ### The reference population -/

/-- The presence value: some device is attached, or the line is stuck low (60_exceptions.md R245, R248). -/
def presence (ds : List Device) (f : LineFault) : Bool :=
  match f with
  | .noFault => !ds.isEmpty
  | .stuckLow => true
  | .openLine => false

/-- The line value of a slot with the master's bit m (60_exceptions.md R249). -/
def lineValue (m : Bool) (ds : List Device) (f : LineFault) : Bool :=
  match f with
  | .noFault => wiredAnd (m :: ds.map Device.output)
  | .stuckLow => false
  | .openLine => m

/-- The devices after a reset. An open line reaches no device (60_exceptions.md R245, R248). -/
def resetDevices (ds : List Device) (f : LineFault) : List Device :=
  match f with
  | .noFault | .stuckLow => ds.map Device.reset
  | .openLine => ds

/-- The devices after a slot with the master's bit m: all step at once, and none under a line fault
(60_exceptions.md R245, R249). -/
def slotDevices (m : Bool) (ds : List Device) (f : LineFault) : List Device :=
  match f with
  | .noFault => ds.map fun d => d.slot (lineValue m ds f)
  | .stuckLow | .openLine => ds

/-! ### The population as an agent -/

/-- The population after a reset. The free oracle has no state (10_state.md R35). -/
def Population.reset : Population → Population
  | .oracle => .oracle
  | .reference ds f => .reference (resetDevices ds f) f

/-- The population after a slot with the master's bit m. -/
def Population.slot (m : Bool) : Population → Population
  | .oracle => .oracle
  | .reference ds f => .reference (slotDevices m ds f) f

/-- Device i's pending conversion lands (60_exceptions.md R255). -/
def Population.land (i : Nat) : Population → Population
  | .oracle => .oracle
  | .reference ds f => .reference (ds.modify i Device.land) f

/-- The answer the script fixes, if it fixes the next one; else the given one (log 7). -/
def Bus.answer (b : Bus) (unscripted : Bool) : Bool :=
  match b.script with
  | some x :: _ => x
  | none :: _ | [] => unscripted

/-- The presence value of the next reset (20_memory.md R55; 60_exceptions.md R248). -/
def Bus.presenceBit (b : Bus) : Bool :=
  b.answer (match b.population with
    | .oracle => Config.busDraw b.draws
    | .reference ds f => presence ds f)

/-- The bit of the next read slot (20_memory.md R55; 60_exceptions.md R249). -/
def Bus.readBit (b : Bus) : Bool :=
  b.answer (match b.population with
    | .oracle => Config.busDraw b.draws
    | .reference ds f => lineValue true ds f)

/-- A transaction is over: the conversions that are to land now land, and the others come nearer (60_exceptions.md
R255; log 15). -/
def Bus.tick (b : Bus) : Bus :=
  { b with
    population := (b.landings.filter fun l => l.transactions ≤ 1).foldl (fun p l => p.land l.device) b.population
    landings := (b.landings.filter fun l => 1 < l.transactions).map fun l =>
      { l with transactions := l.transactions - 1 } }

/-- The bus after a reset: one answer was given. -/
def Bus.afterReset (b : Bus) : Bus :=
  Bus.tick { b with population := b.population.reset, script := b.script.tail, draws := b.draws + 1 }

/-- The bus after a read slot: the master's bit is 1 (60_exceptions.md R249), and one answer was given. -/
def Bus.afterRead (b : Bus) : Bus :=
  Bus.tick { b with population := b.population.slot true, script := b.script.tail, draws := b.draws + 1 }

/-- The bus after a write slot, which is given no answer. -/
def Bus.afterWrite (v : Bool) (b : Bus) : Bus := Bus.tick { b with population := b.population.slot v }

/-- Device i's conversion is to land after k further transactions; with none to wait for, it lands now
(60_exceptions.md R255). -/
def Bus.planLanding (k i : Nat) (b : Bus) : Bus :=
  if k = 0 then { b with population := b.population.land i }
  else { b with landings := b.landings ++ [{ transactions := k, device := i }] }

/-- The bus after one event of the trace: only a transaction reaches it. -/
def Bus.afterEvent (b : Bus) : Event → Bus
  | .rst _ => b.afterReset
  | .w v => b.afterWrite v
  | .r _ => b.afterRead
  | .op _ | .oc _ => b

/-- The bus after the transactions of a list of events, in order. -/
def Bus.replay (b : Bus) (es : List Event) : Bus := es.foldl Bus.afterEvent b

end Sys2Proof.Machine
end

