-- ==== Sys2Proof/Machine/Crc.lean ====
section
/-! DEFINITION. Crc8, the Dallas/Maxim CRC-8 (41_crc8.md). -/

namespace Sys2Proof.Machine

/-- One bit of the CRC: XOR with the checksum's bit 0, shift right, feed back (41_crc8.md R140). -/
def crcBit (c : Byte) (b : Bool) : Byte :=
  if c.getLsbD 0 ^^ b then (c >>> 1) ^^^ Config.crcPoly else c >>> 1

/-- One byte of the CRC, least significant bit first (41_crc8.md R140). -/
def crcByte (c v : Byte) : Byte := (byteBits v).foldl crcBit c

/-- `Crc8(d)` (41_crc8.md R140). -/
def crc8 (d : List Byte) : Byte := d.foldl crcByte Config.crcInit

/-- The CRC of an identifier's bytes 0..6 (41_crc8.md R143; conflict C1). -/
def idCrc (id : Identifier) : Byte := crc8 (id.toList.take 7)

/-- `ValidId(id)` (41_crc8.md R143). -/
def validId (id : Identifier) : Bool := idCrc id == idByte id 7

end Sys2Proof.Machine
end

