-- ==== Sys2Proof/Machine/Flags.lean ====
section
/-! DEFINITION. The flags (10_state.md R28): the block has no condition codes; it has `done`, which
only DISCOVER_ALL uses, and the presence bit each reset returns, which is a value and not stored. -/

namespace Sys2Proof.Machine

/-- The loop condition of DISCOVER_ALL: `done == 0 and count < MAX_DEVICES` (42_enumerator.md R152). -/
def loopCond (s : State) : Bool := !s.search.done && decide (s.count.val < Config.maxDevices)

/-- `done` after a successful pass: set when the pass recorded no discrepancy (42_enumerator.md R163). -/
def doneAfter (done : Bool) (marker : Fin 65) : Bool := if marker.val = 0 then true else done

/-- CAPACITY_EXCEEDED holds when the loop ended with the table full and the search unfinished
(42_enumerator.md R164). -/
def capacityExceeded (s : State) : Bool := !s.search.done && decide (s.count.val = Config.maxDevices)

end Sys2Proof.Machine
end

