-- ==== Sys2Proof/Machine/Ops.lean ====
section
/-! DEFINITION. The named operations every meaning is built from: the three bus transactions and their
compositions, raising an outcome, the start and the return of a host operation, refusing a word, the block
reset. -/

namespace Sys2Proof.Machine

/-! ### The trace (10_state.md R37) -/

/-- Append an event to the trace. -/
def record (e : Event) (s : State) : State := { s with trace := s.trace ++ [e] }

/-- `raise Outcome(code, info)`: the event is appended, and nothing else happens. The raising rule goes on at its
own abort point (00_scope.md R16; 60_exceptions.md R230, R239). This is what stands in the place of taking an
exception: the block has no trap. -/
def raise (o : OutcomeEvent) (s : State) : State := record (.oc o) s

/-- The code of an outcome (60_exceptions.md R230). -/
def OutcomeEvent.code : OutcomeEvent → Nat
  | .busAbsentDiscover | .busAbsentSample _ _ => 1
  | .searchAbortNoResponse _ | .searchAbortCrc _ _ => 2
  | .capacityExceeded _ => 3
  | .sensorAbsentSentinel _ => 4

/-- A transaction event (20_memory.md R52). -/
def Event.isTransaction : Event → Bool
  | .rst _ | .w _ | .r _ => true
  | .op _ | .oc _ => false

/-- The number of bus transactions among the events (95_test_vectors.md section 0). -/
def transactions (es : List Event) : Nat := es.countP Event.isTransaction

/-! ### Bus transactions (40_bitlink.md R110 to R118) -/

/-- `BusReset()`: answers the presence value (40_bitlink.md R110). -/
def busReset (s : State) : Bool × State :=
  (s.bus.presenceBit,
    record (.rst s.bus.presenceBit) { s with pin := s.pin.run wireReset, bus := s.bus.afterReset })

/-- `BusWrite(b)` (40_bitlink.md R112). -/
def busWrite (b : Bool) (s : State) : State :=
  record (.w b) { s with pin := s.pin.run (wireWrite b), bus := s.bus.afterWrite b }

/-- `BusRead()`: answers the sampled line level (40_bitlink.md R114). -/
def busRead (s : State) : Bool × State :=
  (s.bus.readBit,
    record (.r s.bus.readBit) { s with pin := s.pin.run wireRead, bus := s.bus.afterRead })

/-- A run of write slots, first bit first. -/
def writeBits (bs : List Bool) (s : State) : State := bs.foldl (fun s b => busWrite b s) s

/-- `WriteByte(v)`: eight write slots, least significant bit first (40_bitlink.md R116). -/
def writeByte (v : Byte) (s : State) : State := writeBits (byteBits v) s

/-- The eight bytes of an identifier, byte 0 first (43_sampler.md R182). -/
def writeId (id : Identifier) (s : State) : State := id.toList.foldl (fun s v => writeByte v s) s

/-- The rest of `ReadBits`: n more reads into bits i, i+1, ... of r (40_bitlink.md R118). -/
def readBitsFrom (i : Nat) (r : Half) : Nat → State → Half × State
  | 0, s => (r, s)
  | n + 1, s => readBitsFrom (i + 1) (putBit r i (busRead s).1) n (busRead s).2

/-- `ReadBits(16)`: read k becomes bit k (40_bitlink.md R118). -/
def readSample (s : State) : Half × State := readBitsFrom 0 0 Config.sampleBits s

/-! ### Host operations (10_state.md R30, R31, R37) -/

/-- The name of a host operation; a bus command is none (30_encoding.md R81, R101). -/
def hostOpOf : Instr → Option HostOp
  | .owReset => some .owReset
  | .owWriteBit _ => some .owWriteBit
  | .owReadBit => some .owReadBit
  | .owWriteByte _ => some .owWriteByte
  | .crc8 _ => some .crc8
  | .discoverAll => some .discoverAll
  | .sampleAll => some .sampleAll
  | .format _ _ => some .format
  | .searchRom | .matchRom | .readScratchpad | .convertT => none

/-- The start of a host operation: `seq <- BUSY(op, 0)` and its `OP:` event. -/
def startOp (o : HostOp) (i : Instr) (s : State) : State :=
  record (.op o) { s with seq := .busy i .start }

/-- The return of a host operation: `result <- v; seq <- IDLE`. -/
def returnOp (v : Result) (s : State) : State := { s with result := v, seq := .idle }

/-! ### Refusals and resets -/

/-- A refused word: nothing is performed, and the refusal mark takes the reason (60_exceptions.md R236). -/
def refuseWord (r : RefusalReason) (s : State) : State := { s with refusals := s.refusals ++ [r] }

/-- The block reset (70_reset_and_hazards.md R270, 10_state.md R36). It does not reach the bus population, the
trace or the refusal mark. -/
def blockReset (s : State) : State :=
  { s with
    search := State.reset.search
    count := State.reset.count
    table := State.reset.table
    samples := Vector.replicate 5 s.params.sentinel
    pin := State.reset.pin
    seq := State.reset.seq
    result := State.reset.result
    index := State.reset.index
    pendingReset := none }

/-- The events up to the k-th transaction: where a block reset lands after k transactions of an operation, the
operation performs no further one and raises no further outcome (70_reset_and_hazards.md R270). -/
def uptoTransactions : Nat → List Event → List Event
  | _, [] => []
  | 0, .op o :: es => .op o :: uptoTransactions 0 es
  | 0, .rst _ :: _ => []
  | 0, .w _ :: _ => []
  | 0, .r _ :: _ => []
  | 0, .oc _ :: _ => []
  | k + 1, e :: es => e :: uptoTransactions (if e.isTransaction then k else k + 1) es

/-- The state where a block reset landed after k transactions of what took s to t: exactly those transactions
reached the bus and the trace, and the block is reset (70_reset_and_hazards.md R270; log 13). -/
def cutShort (k : Nat) (s t : State) : State :=
  let kept := uptoTransactions k (t.trace.drop s.trace.length)
  blockReset { s with trace := s.trace ++ kept, bus := s.bus.replay kept, free := t.free }

/-- Let a pending block reset land in what took s to t, if its transaction is among them; else count them off
(log 13). -/
def landReset (s t : State) : State :=
  match s.pendingReset with
  | none => t
  | some k =>
    if k ≤ transactions (t.trace.drop s.trace.length) then cutShort k s t
    else { t with pendingReset := some (k - transactions (t.trace.drop s.trace.length)) }

/-! ### The device table and the samples (10_state.md R26, R27) -/

/-- `table[i]`; i is 0..4 in every rule. -/
def tableEntry (s : State) (i : Nat) : Identifier := (s.table[i]?).getD (Vector.replicate 8 0)

/-- `samples[i] <- v`. -/
def setSample (i : Nat) (v : Half) (s : State) : State :=
  { s with samples := s.samples.setIfInBounds i v }

/-- `table[count] <- id; count <- count + 1` (42_enumerator.md R163), which runs only while `count < 5`
(R152). -/
def appendId (id : Identifier) (s : State) : State :=
  { s with table := s.table.setIfInBounds s.count.val id, count := s.count + 1 }

end Sys2Proof.Machine
end

