-- ==== Sys2Proof/Machine/BitLink.lean ====
section
/-! DEFINITION. The BitLink host operations (40_bitlink.md). Each meaning is the operation's procedure between its
start (`seq <- BUSY`, the `OP:` event) and its return (`seq <- IDLE`). -/

namespace Sys2Proof.Machine

/-- OW_RESET's procedure: `result <- BusReset()`. No presence is a value, not an outcome (40_bitlink.md R111). -/
def runOwReset (s : State) : State := returnOp (.bit (busReset s).1) (busReset s).2

/-- OW_RESET (40_bitlink.md R111). -/
def execOwReset (s : State) : Host.Outcome State Fault Refusal :=
  .next (runOwReset (startOp .owReset .owReset s))

/-- OW_WRITE_BIT's procedure: `BusWrite(B); result <- none` (40_bitlink.md R113). -/
def runOwWriteBit (b : Bool) (s : State) : State := returnOp .noValue (busWrite b s)

/-- OW_WRITE_BIT (40_bitlink.md R113). -/
def execOwWriteBit (b : Bool) (s : State) : Host.Outcome State Fault Refusal :=
  .next (runOwWriteBit b (startOp .owWriteBit (.owWriteBit b) s))

/-- OW_READ_BIT's procedure: `result <- BusRead()` (40_bitlink.md R115). -/
def runOwReadBit (s : State) : State := returnOp (.bit (busRead s).1) (busRead s).2

/-- OW_READ_BIT (40_bitlink.md R115). -/
def execOwReadBit (s : State) : Host.Outcome State Fault Refusal :=
  .next (runOwReadBit (startOp .owReadBit .owReadBit s))

/-- OW_WRITE_BYTE's procedure: `WriteByte(V); result <- none`. The byte has no meaning to the block
(40_bitlink.md R117). -/
def runOwWriteByte (v : Byte) (s : State) : State := returnOp .noValue (writeByte v s)

/-- OW_WRITE_BYTE (40_bitlink.md R117). -/
def execOwWriteByte (v : Byte) (s : State) : Host.Outcome State Fault Refusal :=
  .next (runOwWriteByte v (startOp .owWriteByte (.owWriteByte v) s))

end Sys2Proof.Machine
end

