-- ==== Sys2Proof/Machine/Crc8.lean ====
section
/-! DEFINITION. The host operation CRC8 (41_crc8.md R141). -/

namespace Sys2Proof.Machine

/-- CRC8's procedure: `result <- Crc8(d[0..N-1])`, with no bus transaction (41_crc8.md R141). -/
def runCrc8 (data : List Byte) (s : State) : State := returnOp (.byte (crc8 data)) s

/-- CRC8 (41_crc8.md R141). -/
def execCrc8 (data : List Byte) (s : State) : Host.Outcome State Fault Refusal :=
  .next (runCrc8 data (startOp .crc8 (.crc8 data) s))

end Sys2Proof.Machine
end

