-- ==== Sys2Proof/Machine/Enumerator.lean ====
section
/-! DEFINITION. DeviceEnumerator: the search pass and DISCOVER_ALL (42_enumerator.md), and the bus command
SEARCH_ROM, whose frame a pass is (30_encoding.md R92). -/

namespace Sys2Proof.Machine

/-! ### One search position (42_enumerator.md R156 to R160) -/

/-- The direction and the marker at position p, from the two reads a and b where they are not (1,1): agreement
takes the devices' bit (R157); at a discrepancy an earlier position replays `idBuf.bit(p)` and records a replayed
1, the position of the last discrepancy takes 0, and a later one takes 1 and is recorded (R159; conflict C3). -/
def chooseDirection (a b : Bool) (p : Fin 65) (r : Search) : Bool × Fin 65 :=
  if a ≠ b then (a, r.marker)
  else if p < r.lastDiscrepancy then
    (idBit r.idBuf p.val, if idBit r.idBuf p.val then p else r.marker)
  else if p = r.lastDiscrepancy then (false, r.marker)
  else (true, p)

/-- The write of a position: `BusWrite(d); idBuf.bit(p) <- d`, with the marker chosen (42_enumerator.md R160). -/
def takeDirection (d : Bool) (m : Fin 65) (s : State) : State :=
  let t := busWrite d s
  { t with search := { t.search with marker := m, idBuf := setIdBit t.search.idBuf t.search.p.val d } }

/-- The position counter takes p (10_state.md R25). -/
def atPosition (p : Fin 65) (s : State) : State := { s with search := { s.search with p := p } }

/-- One search position: two reads and the write of the chosen direction; false where the reads are (1,1), and
then nothing is written (42_enumerator.md R156 to R160). -/
def searchPosition (p : Fin 65) (s : State) : Bool × State :=
  let s0 := atPosition p s
  let a := (busRead s0).1
  let s1 := (busRead s0).2
  let b := (busRead s1).1
  let s2 := (busRead s1).2
  if a && b then (false, s2)
  else (true, takeDirection (chooseDirection a b p s2.search).1 (chooseDirection a b p s2.search).2 s2)

/-! ### The Search ROM frame (30_encoding.md R92) -/

/-- How a pass's bus frame ended. -/
inductive SearchEnd where
  /-- The reset saw no presence. -/
  | absent
  /-- Position p read (1,1). -/
  | noResponse (p : Nat)
  /-- All 64 positions were taken. -/
  | complete
  deriving DecidableEq, Repr

/-- The last n search positions, in increasing order up to 64 (42_enumerator.md R156; 10_state.md R25). -/
def searchPositions : Nat → State → SearchEnd × State
  | 0, s => (.complete, s)
  | n + 1, s =>
    let p := Fin.ofNat 65 (Config.idBits - n)
    let r := searchPosition p s
    if r.1 then searchPositions n r.2 else (.noResponse p.val, r.2)

/-- `marker <- 0` (42_enumerator.md R155). -/
def clearMarker (s : State) : State := { s with search := { s.search with marker := 0 } }

/-- The bus frame of a search pass: reset, 0xF0, and the triplets of positions 1..64 with the directions of R159
(30_encoding.md R92; 42_enumerator.md R153 to R160). -/
def searchFrame (s : State) : SearchEnd × State :=
  let r := busReset s
  if r.1 then searchPositions Config.idBits (clearMarker (writeByte Config.cmdSearchRom r.2))
  else (.absent, r.2)

/-! ### The rest of a pass (42_enumerator.md R161 to R163) -/

/-- Failure: `lastDiscrepancy <- 0`, and nothing else (42_enumerator.md R162). -/
def passFailed (s : State) : State := { s with search := { s.search with lastDiscrepancy := 0 } }

/-- Success: the identifier is appended, `lastDiscrepancy <- marker`, and `done <- 1` if the pass recorded no
discrepancy (42_enumerator.md R163). -/
def passSucceeded (s : State) : State :=
  let t := appendId s.search.idBuf s
  { t with search := { t.search with
      lastDiscrepancy := t.search.marker, done := doneAfter t.search.done t.search.marker } }

/-- The validation of a candidate (42_enumerator.md R161). -/
def validate (s : State) : State :=
  if validId s.search.idBuf then passSucceeded s
  else passFailed (raise (.searchAbortCrc (idCrc s.search.idBuf) (idByte s.search.idBuf 7)) s)

/-! ### DISCOVER_ALL (42_enumerator.md R150) -/

/-- The end of the operation: CAPACITY_EXCEEDED where it holds, and `result <- count` (42_enumerator.md
R164). -/
def discoverReturn (s : State) : State :=
  returnOp (.count s.count.val)
    (if capacityExceeded s then raise (.capacityExceeded Config.maxDevices) s else s)

/-- The loop test (42_enumerator.md R152): the operation stays BUSY at it, for the next pass, or returns. -/
def discoverLoop (s : State) : State :=
  if loopCond s then { s with seq := .busy .discoverAll .loopTest } else discoverReturn s

/-- One pass and the loop test after it. No presence leaves the loop (42_enumerator.md R153); a (1,1) raises
NO_RESPONSE and fails the pass (R158, R162); a complete frame is validated (R161). -/
def discoverPass (s : State) : State :=
  let r := searchFrame s
  match r.1 with
  | .absent => discoverReturn (raise .busAbsentDiscover r.2)
  | .noResponse p => discoverLoop (passFailed (raise (.searchAbortNoResponse p) r.2))
  | .complete => discoverLoop (validate r.2)

/-- The turn of the loop the sequencer stands at: one pass, or the return (42_enumerator.md R152). -/
def discoverTurn (s : State) : State := if loopCond s then discoverPass s else discoverReturn s

/-- Step 1: `lastDiscrepancy <- 0; done <- 0; count <- 0`, which empties the table (42_enumerator.md R151). DESIGN
CHOICE (log 27): the entries, which from here on may hold any value (10_state.md R26), keep the identifiers they
held. -/
def discoverInit (s : State) : State :=
  { s with count := 0, search := { s.search with lastDiscrepancy := 0, done := false } }

/-- DISCOVER_ALL's procedure up to its first loop test after a pass: step 1 and the first pass. -/
def runDiscoverAll (s : State) : State := discoverTurn (discoverInit s)

/-- DISCOVER_ALL (42_enumerator.md R150). One step runs one pass; the operation may go on for ever (R166), so the
later passes are the later steps (log 2). -/
def execDiscoverAll (s : State) : Host.Outcome State Fault Refusal :=
  .next (runDiscoverAll (startOp .discoverAll .discoverAll s))

/-- SEARCH_ROM: its frame (30_encoding.md R92; log 5). -/
def execSearchRom (s : State) : Host.Outcome State Fault Refusal := .next (searchFrame s).2

end Sys2Proof.Machine
end

