-- ==== Sys2Proof/Machine/Formatter.lean ====
section
/-! DEFINITION. TemperatureFormatter: the fixed-point decoder and FORMAT (44_formatter.md). -/

namespace Sys2Proof.Machine

/-- What a conversion answers: the sign, the whole degrees and the sixteenths (44_formatter.md R202, R203). -/
structure Reading where
  negative : Bool
  whole : Nat
  nib : Nat
  deriving DecidableEq, Repr

/-- The Celsius conversion (44_formatter.md R202): the sign is bit 15 alone; a negative value is
two's-complemented; the whole part is bits 10..4 and the nibble bits 3..0. -/
def celsius (raw : Half) : Reading :=
  let neg := raw.getLsbD 15
  let v := if neg then ~~~raw + 1 else raw
  { negative := neg, whole := (v.extractLsb' 4 7).toNat, nib := (v.extractLsb' 0 4).toNat }

/-- f of 44_formatter.md R203: the Fahrenheit temperature in sixteenths, with a division truncated toward zero. -/
def fahrenheitScaled (raw : Half) : Int :=
  ((rawValue raw + Config.fOffsetC) * Config.fMul).tdiv Config.fDiv - Config.fSub

/-- The Fahrenheit conversion (44_formatter.md R203). `n0`, the low four bits of f, is f mod 16 in 0..15
(00_scope.md R13). -/
def fahrenheit (raw : Half) : Reading :=
  let f := fahrenheitScaled raw
  let w0 := f.tdiv 16
  let n0 := (f % 16).toNat
  if f < 0 then { negative := true, whole := (-w0).toNat, nib := (16 - n0) % 16 }
  else { negative := false, whole := w0.toNat, nib := n0 }

/-- The conversion a unit selects (44_formatter.md R200). -/
def convert : TempUnit → Half → Reading
  | .celsius => celsius
  | .fahrenheit => fahrenheit

/-- The fill character of the whole-degree field (44_formatter.md R206). -/
def Pad.char : Pad → Byte
  | .space => 0x20
  | .zero => 0x30

/-- The sign character (44_formatter.md R202, R203). -/
def signChar (negative : Bool) : Byte := if negative then 0x2D else 0x20

/-- The tenths digit `FRAC_DIGIT[nib]` (44_formatter.md R204). -/
def tenths (nib : Nat) : Byte := digit ((Config.fracDigit[nib]?).getD 0)

/-- `Render` (44_formatter.md R205, R206); none where the whole part does not fit three digits (R207). -/
def render (pad : Pad) (r : Reading) : Option Text :=
  if 1000 ≤ r.whole then none
  else some #v[signChar r.negative,
    if 100 ≤ r.whole then digit (r.whole / 100) else Pad.char pad,
    if 10 ≤ r.whole then digit (r.whole / 10 % 10) else Pad.char pad,
    digit (r.whole % 10), 0x2E, tenths r.nib]

/-- The placeholder "------" (44_formatter.md R201). -/
def placeholder : Text := Vector.replicate 6 0x2D

/-- The free text of an overflowing field: any six ASCII characters (44_formatter.md R207; log 8). -/
def overflowText (s : State) : Text := (Config.freeText s.free).map (BitVec.setWidth 8)

/-- FORMAT's procedure (44_formatter.md R200): the sentinel gives the placeholder and the outcome
SENSOR_ABSENT_SENTINEL; any other value is converted and rendered. -/
def runFormat (unit : TempUnit) (raw : Half) (s : State) : State :=
  if raw = s.params.sentinel then returnOp (.text placeholder) (raise (.sensorAbsentSentinel raw) s)
  else match render s.params.pad (convert unit raw) with
    | some t => returnOp (.text t) s
    | none => returnOp (.text (overflowText s)) { s with free := s.free + 1 }

/-- FORMAT (44_formatter.md R200). -/
def execFormat (unit : TempUnit) (raw : Half) (s : State) : Host.Outcome State Fault Refusal :=
  .next (runFormat unit raw (startOp .format (.format unit raw) s))

end Sys2Proof.Machine
end

