-- ==== Sys2Proof/Machine/Sampler.lean ====
section
/-! DEFINITION. TemperatureSampler: SAMPLE_ALL (43_sampler.md), and the bus commands MATCH_ROM, READ_SCRATCHPAD
and CONVERT_T, of whose frames it is made (30_encoding.md R93 to R95). -/

namespace Sys2Proof.Machine

/-- The device index of the frames that follow (43_sampler.md R181). -/
def atIndex (i : Nat) (s : State) : State := { s with index := Fin.ofNat 5 i }

/-- `AddressDevice(i)`: the Match ROM frame; false where the reset sees no presence, and then the frame is that one
event (43_sampler.md R182; 30_encoding.md R93). -/
def addressDevice (i : Nat) (s : State) : Bool × State :=
  let r := busReset s
  (r.1, if r.1 then writeId (tableEntry s i) (writeByte Config.cmdMatchRom r.2) else r.2)

/-- The Read Scratchpad frame of device i: addressing, 0xBE, and 16 reads stored unchanged into `samples[i]`
(43_sampler.md R184; 30_encoding.md R94). -/
def readFrame (i : Nat) (s : State) : Bool × State :=
  let r := addressDevice i s
  if r.1 then
    let v := readSample (writeByte Config.cmdReadScratchpad r.2)
    (true, setSample i v.1 v.2)
  else (false, r.2)

/-- The Convert T frame of device i: addressing and 0x44, with no wait (43_sampler.md R185; 30_encoding.md
R95). -/
def convertFrame (i : Nat) (s : State) : Bool × State :=
  let r := addressDevice i s
  (r.1, if r.1 then writeByte Config.cmdConvertT r.2 else r.2)

/-- One device's cycle: read, then re-trigger. No presence at either reset raises BUS_ABSENT and answers false
(43_sampler.md R180, R183). -/
def sampleDevice (i : Nat) (s : State) : Bool × State :=
  let r := readFrame i (atIndex i s)
  if r.1 then
    let c := convertFrame i r.2
    (c.1, if c.1 then c.2 else raise (.busAbsentSample i .convert) c.2)
  else (false, raise (.busAbsentSample i .read) r.2)

/-- The cycles of n devices from index i on, in table order, up to the first BUS_ABSENT (43_sampler.md R181,
R183). -/
def sampleFrom (i : Nat) : Nat → State → State
  | 0, s => s
  | n + 1, s =>
    let r := sampleDevice i s
    if r.1 then sampleFrom (i + 1) n r.2 else r.2

/-- SAMPLE_ALL's procedure (43_sampler.md R180). -/
def runSampleAll (s : State) : State := returnOp .noValue (sampleFrom 0 s.count.val s)

/-- SAMPLE_ALL (43_sampler.md R180). -/
def execSampleAll (s : State) : Host.Outcome State Fault Refusal :=
  .next (runSampleAll (startOp .sampleAll .sampleAll s))

/-- MATCH_ROM: its frame, for the device of the current index (30_encoding.md R93; log 5). -/
def execMatchRom (s : State) : Host.Outcome State Fault Refusal := .next (addressDevice s.index.val s).2

/-- READ_SCRATCHPAD: its frame, for the device of the current index (30_encoding.md R94; log 5). -/
def execReadScratchpad (s : State) : Host.Outcome State Fault Refusal := .next (readFrame s.index.val s).2

/-- CONVERT_T: its frame, for the device of the current index (30_encoding.md R95; log 5). -/
def execConvertT (s : State) : Host.Outcome State Fault Refusal := .next (convertFrame s.index.val s).2

end Sys2Proof.Machine
end

