-- ==== Sys2Proof/Machine/Dispatch.lean ====
section
/-! DEFINITION. One arm per instruction: the call of its meaning. -/

namespace Sys2Proof.Machine

def exec (i : Instr) (s : State) : Host.Outcome State Fault Refusal :=
  match i with
  | .owReset => Sys2Proof.Machine.execOwReset s
  | .owWriteBit b => Sys2Proof.Machine.execOwWriteBit b s
  | .owReadBit => Sys2Proof.Machine.execOwReadBit s
  | .owWriteByte v => Sys2Proof.Machine.execOwWriteByte v s
  | .crc8 data => Sys2Proof.Machine.execCrc8 data s
  | .discoverAll => Sys2Proof.Machine.execDiscoverAll s
  | .sampleAll => Sys2Proof.Machine.execSampleAll s
  | .format unit raw => Sys2Proof.Machine.execFormat unit raw s
  | .searchRom => Sys2Proof.Machine.execSearchRom s
  | .matchRom => Sys2Proof.Machine.execMatchRom s
  | .readScratchpad => Sys2Proof.Machine.execReadScratchpad s
  | .convertT => Sys2Proof.Machine.execConvertT s

end Sys2Proof.Machine
end

