-- ==== Sys2Proof/Machine/Schedule.lean ====
section
/-! DEFINITION. Which agent moves next (60_exceptions.md R240; log 3, log 4): accepting a request, the block's
going on while BUSY, and the moves of the host, the platform and the devices. -/

namespace Sys2Proof.Machine

/-- The agenda once its first move is made. -/
def dropMove (s : State) : State := { s with agenda := s.agenda.tail }

/-- A pending block reset lands in the step from s, if it is due (log 13). -/
def landIn (s : State) : Host.Outcome State Fault Refusal → Host.Outcome State Fault Refusal
  | .next t => .next (landReset s t)
  | .fault f => .fault f
  | .refused r => .refused r

/-- A packet the block takes up while IDLE: it is refused with its reason (60_exceptions.md R236), or the decoded
instruction runs. -/
def accept (p : Packet) (s : State) : Host.Outcome State Fault Refusal :=
  match decode p with
  | .ok i => landIn s (exec i s)
  | .error r => .next (refuseWord r s)

/-- A request the block takes up while IDLE, and stops at position 0 of: `seq <- BUSY(op, 0)` (10_state.md R30). A word
decodes to a host operation or to nothing (30_encoding.md R101; log 21). -/
def acceptStart (q : Request) (s : State) : Host.Outcome State Fault Refusal :=
  match decode q.packet with
  | .ok i =>
    match hostOpOf i with
    | some o => landIn s (.next (startOp o i s))
    | none => landIn s (exec i s)
  | .error r => .next (refuseWord r s)

/-- The rest of the operation the block is BUSY with: its procedure from position 0, or from the loop test of
DISCOVER_ALL on (10_state.md R30; log 2, log 21). -/
def goOn (i : Instr) (pos : Pos) (s : State) : State :=
  match pos with
  | .loopTest => discoverTurn s
  | .start =>
    match i with
    | .owReset => runOwReset s
    | .owWriteBit b => runOwWriteBit b s
    | .owReadBit => runOwReadBit s
    | .owWriteByte v => runOwWriteByte v s
    | .crc8 data => runCrc8 data s
    | .discoverAll => runDiscoverAll s
    | .sampleAll => runSampleAll s
    | .format unit raw => runFormat unit raw s
    | .searchRom => returnOp .noValue (searchFrame s).2
    | .matchRom => returnOp .noValue (addressDevice s.index.val s).2
    | .readScratchpad => returnOp .noValue (readFrame s.index.val s).2
    | .convertT => returnOp .noValue (convertFrame s.index.val s).2

/-- The block goes on with its operation. -/
def proceed (i : Instr) (pos : Pos) (s : State) : Host.Outcome State Fault Refusal :=
  .next (landReset s (goOn i pos s))

/-- The platform plans a block reset (70_reset_and_hazards.md R270). -/
def planReset (k : Nat) (s : State) : State := { s with pendingReset := some k }

/-- A pending conversion lands (60_exceptions.md R255). -/
def landConversion (i : Nat) (s : State) : State :=
  { s with bus := { s.bus with population := s.bus.population.land i } }

/-- A conversion is to land when k further transactions are done, so also between two transactions of one operation
(60_exceptions.md R255). -/
def planLanding (k i : Nat) (s : State) : State := { s with bus := s.bus.planLanding k i }

/-- The population changes (60_exceptions.md R245). -/
def setPopulation (p : Population) (s : State) : State := { s with bus := { s.bus with population := p } }

/-- A step while the block is IDLE: the next move of the agenda; with none, the block waits (70_reset_and_hazards.md
R271; log 20). -/
def idleStep (s : State) : Host.Outcome State Fault Refusal :=
  match s.agenda with
  | [] => .next s
  | .issue q :: _ => accept q.packet (dropMove s)
  | .start q :: _ => acceptStart q (dropMove s)
  | .intrude q :: _ => accept q.packet (dropMove s)
  | .frame b :: _ => accept (.busCmd b) (dropMove s)
  | .blockReset :: _ => .next (blockReset (dropMove s))
  | .resetAfter k :: _ => .next (planReset k (dropMove s))
  | .landConversion i :: _ => .next (landConversion i (dropMove s))
  | .landAfter k i :: _ => .next (planLanding k i (dropMove s))
  | .population p :: _ => .next (setPopulation p (dropMove s))

/-- A step while the block is BUSY: a host that does its duty waits, and the block goes on; a word presented
nonetheless is refused `busy`; a block reset ends the operation (60_exceptions.md R236, R240;
70_reset_and_hazards.md R270, R277). -/
def busyStep (i : Instr) (pos : Pos) (s : State) : Host.Outcome State Fault Refusal :=
  match s.agenda with
  | [] => proceed i pos s
  | .issue _ :: _ => proceed i pos s
  | .start _ :: _ => proceed i pos s
  | .intrude _ :: _ => .next (refuseWord .busy (dropMove s))
  | .frame _ :: _ => proceed i pos s
  | .blockReset :: _ => .next (blockReset (dropMove s))
  | .resetAfter k :: _ => .next (planReset k (dropMove s))
  | .landConversion d :: _ => .next (landConversion d (dropMove s))
  | .landAfter k d :: _ => .next (planLanding k d (dropMove s))
  | .population _ :: _ => proceed i pos s

/-- One step of the machine. -/
def stepAgents (s : State) : Host.Outcome State Fault Refusal :=
  match s.seq with
  | .idle => idleStep s
  | .busy i pos => busyStep i pos s

/-- The move that has the block take up a packet: the host's, for a request word; a bus command no host can issue, and it
runs by itself (30_encoding.md R101; log 5). -/
def moveOf : Packet → Move
  | .hostOp w data => .issue { word := w, data := data }
  | .busCmd b => .frame b

/-- The state whose next step takes up the given packet: the block is IDLE with no block reset pending, and the
packet is the first move of the agenda (log 3). -/
def withPacket (p : Packet) (s : State) : State :=
  { s with agenda := moveOf p :: s.agenda, seq := .idle, pendingReset := none }

end Sys2Proof.Machine
end

