-- ==== Sys2Proof/Machine/Step.lean ====
section
/-! DEFINITION. One step, and where it fetches from. -/

namespace Sys2Proof.Machine

/-- One step of the machine: an agent's move, a whole host operation, or one pass of a DISCOVER_ALL that goes on
(10_state.md R30; log 2). -/
def step (s : State) : Host.Outcome State Fault Refusal := stepAgents s

/-- s with the instruction of an opcode-table row as the next request (log 3). -/
def State.withFetchWord (s : State) (nbits w : Nat) : State := withPacket (packetOfTableWord nbits w) s

end Sys2Proof.Machine
end

