-- ==== Sys2Proof/Machine/HostPort.lean ====
section
/-! DEFINITION. What the host sees, and the textual forms of words and traces (60_exceptions.md R240;
30_encoding.md R99, R100). -/

namespace Sys2Proof.Machine

/-- What the host may read while the block is IDLE (10_state.md R20; 60_exceptions.md R240). -/
structure HostView where
  count : Nat
  identifiers : List Identifier
  samples : List Half
  result : Result
  deriving DecidableEq, Repr

/-- The host's view: `count`, `table[0..count-1]`, `samples[0..4]` and `result` while IDLE; only that the block is
busy while BUSY (10_state.md R30). Reading has no side effect (20_memory.md R64). -/
def hostView (s : State) : Option HostView :=
  match s.seq with
  | .idle => some { count := s.count.val, identifiers := s.table.toList.take s.count.val,
                    samples := s.samples.toList, result := s.result }
  | .busy _ _ => none

/-- The refusal mark of the run (60_exceptions.md R236). -/
def refusalMark (s : State) : Bool := !s.refusals.isEmpty

/-- `FORMAT samples[i], C` and `F`: the host reads slot i and then issues the FORMAT word for that value
(30_encoding.md R99). -/
def formatSlot (s : State) (i : Nat) (unit : TempUnit) : Packet :=
  encode (.format unit ((s.samples[i]?).getD 0))

/-! ### Text (30_encoding.md R99, R100) -/

/-- A hexadecimal digit. -/
def hexDigit (n : Nat) : String :=
  (["0", "1", "2", "3", "4", "5", "6", "7", "8", "9", "A", "B", "C", "D", "E", "F"][n]?).getD "?"

/-- n hexadecimal digits of v, without the prefix. -/
def hexDigits : Nat → Nat → String
  | 0, _ => ""
  | n + 1, v => hexDigits n (v / 16) ++ hexDigit (v % 16)

/-- A number of n hexadecimal digits, with `0x`. -/
def hexText (n v : Nat) : String := "0x" ++ hexDigits n v

/-- A bit as text. -/
def bitText (b : Bool) : String := if b then "1" else "0"

/-- A unit as text. -/
def unitText : TempUnit → String
  | .celsius => "C"
  | .fahrenheit => "F"

/-- The name of a host operation. -/
def HostOp.text : HostOp → String
  | .owReset => "OW_RESET"
  | .owWriteBit => "OW_WRITE_BIT"
  | .owReadBit => "OW_READ_BIT"
  | .owWriteByte => "OW_WRITE_BYTE"
  | .crc8 => "CRC8"
  | .discoverAll => "DISCOVER_ALL"
  | .sampleAll => "SAMPLE_ALL"
  | .format => "FORMAT"

/-- The assembler text of an instruction (30_encoding.md R99); a bus command, which no host issues, by its name
(R90). -/
def asmText : Instr → String
  | .owReset => "OW_RESET"
  | .owWriteBit b => "OW_WRITE_BIT " ++ bitText b
  | .owReadBit => "OW_READ_BIT"
  | .owWriteByte v => "OW_WRITE_BYTE " ++ hexText 2 v.toNat
  | .crc8 data => "CRC8 [" ++ ", ".intercalate (data.map fun d => hexText 2 d.toNat) ++ "]"
  | .discoverAll => "DISCOVER_ALL"
  | .sampleAll => "SAMPLE_ALL"
  | .format u raw => "FORMAT " ++ hexText 4 raw.toNat ++ ", " ++ unitText u
  | .searchRom => "SEARCH_ROM"
  | .matchRom => "MATCH_ROM"
  | .readScratchpad => "READ_SCRATCHPAD"
  | .convertT => "CONVERT_T"

/-- The text of an outcome (60_exceptions.md R230). -/
def OutcomeEvent.text : OutcomeEvent → String
  | .busAbsentDiscover => "BUS_ABSENT(op=DISCOVER_ALL)"
  | .busAbsentSample i .read => "BUS_ABSENT(op=SAMPLE_ALL,index=" ++ toString i ++ ",phase=READ)"
  | .busAbsentSample i .convert => "BUS_ABSENT(op=SAMPLE_ALL,index=" ++ toString i ++ ",phase=CONVERT)"
  | .searchAbortNoResponse p => "SEARCH_ABORT(cause=NO_RESPONSE,position=" ++ toString p ++ ")"
  | .searchAbortCrc c d =>
    "SEARCH_ABORT(cause=CRC,computed=" ++ hexText 2 c.toNat ++ ",stored=" ++ hexText 2 d.toNat ++ ")"
  | .capacityExceeded n => "CAPACITY_EXCEEDED(count=" ++ toString n ++ ")"
  | .sensorAbsentSentinel raw => "SENSOR_ABSENT_SENTINEL(raw=" ++ hexText 4 raw.toNat ++ ")"

/-- The text of an event (30_encoding.md R100; 10_state.md R37). -/
def Event.text : Event → String
  | .op o => "OP:" ++ HostOp.text o
  | .rst p => "RST:" ++ bitText p
  | .w b => "W:" ++ bitText b
  | .r b => "R:" ++ bitText b
  | .oc o => "OC:" ++ OutcomeEvent.text o

/-- The text of a trace: its events, separated by commas (30_encoding.md R100). -/
def traceText (es : List Event) : String := ",".intercalate (es.map Event.text)

end Sys2Proof.Machine
end

