-- ==== Sys2Proof/Machine/Timing.lean ====
section
/-! DEFINITION. The timing contract (40_bitlink.md R123 to R135): the parameters with their bounds, the lengths of
the wire programs' delays, the bus time of a list of events (70_reset_and_hazards.md R284), and how long transactions may
take when delays return late (40_bitlink.md R124). No rule of the
model depends on it and State holds no clock (R285; log 12). -/

namespace Sys2Proof.Machine

/-- The timing parameters, in nanoseconds: those the document bounds, and the OPEN ones of 92_eei_decisions.md
D29. -/
structure Timing where
  /-- `T_RSTL`, R125. -/
  rstl : Nat
  /-- `T_RSTL_MAX`, OPEN, R125. -/
  rstlMax : Nat
  /-- `T_PDWAIT`, OPEN, R126. -/
  pdwait : Nat
  /-- `T_PRESENCE_WINDOW`, OPEN, its first and last moment after release, R126. -/
  presenceFrom : Nat
  presenceTo : Nat
  /-- `T_RST_TOTAL`, R127. -/
  rstTotal : Nat
  /-- `T_LOW1`, R128. -/
  low1 : Nat
  /-- `T_LOW0`, R129. -/
  low0 : Nat
  /-- `T_SLOT_W`, R130. -/
  slotW : Nat
  /-- `T_REC_W`, OPEN, R130. -/
  recW : Nat
  /-- `T_LOWR`, R131. -/
  lowR : Nat
  /-- `T_RDV`, R132. -/
  rdv : Nat
  /-- `T_SLOT_R`, R133. -/
  slotR : Nat
  deriving DecidableEq, Repr

/-- The bounds of the reset transaction (40_bitlink.md R125 to R127). -/
abbrev Timing.ResetOk (t : Timing) : Prop :=
  480000 ≤ t.rstl ∧ t.rstl ≤ t.rstlMax ∧ t.presenceFrom ≤ t.pdwait ∧ t.pdwait ≤ t.presenceTo ∧
    t.rstl + t.pdwait ≤ t.rstTotal ∧ t.rstTotal = 800000

/-- The bounds of the write slot (40_bitlink.md R128 to R130; conflict C7). DESIGN CHOICE (log 26): the low phase and
the recovery of R112's program fit in T_SLOT_W, and where they are shorter the rest of the slot is waited after the
program; the spec does not say where. -/
abbrev Timing.WriteOk (t : Timing) : Prop :=
  1000 ≤ t.low1 ∧ t.low1 ≤ 15000 ∧ 60000 ≤ t.low0 ∧ t.low0 ≤ 120000 ∧ 0 < t.recW ∧
    t.low1 + t.recW ≤ t.slotW ∧ t.low0 + t.recW ≤ t.slotW ∧ 65000 ≤ t.slotW ∧ t.slotW ≤ 70000

/-- The bounds of the read slot (40_bitlink.md R131 to R133). -/
abbrev Timing.ReadOk (t : Timing) : Prop :=
  1000 ≤ t.lowR ∧ t.lowR ≤ 2000 ∧ t.lowR ≤ t.rdv ∧ t.rdv ≤ 30000 ∧ 60000 ≤ t.slotR ∧ t.slotR ≤ 75000

/-- The timing contract. "About" is read as the closed interval the document gives (log 12). -/
abbrev Timing.Ok (t : Timing) : Prop := t.ResetOk ∧ t.WriteOk ∧ t.ReadOk

/-- The length a wire program asks of a delay (40_bitlink.md R110, R112, R114). It may return later (R124; `Took`). -/
def Delay.ns (t : Timing) : Delay → Nat
  | .resetLow => t.rstl
  | .presenceWait => t.pdwait
  | .resetRest => t.rstTotal - t.rstl - t.pdwait
  | .low1 => t.low1
  | .low0 => t.low0
  | .writeRecovery => t.recW
  | .readLow => t.lowR
  | .readValid => t.rdv - t.lowR
  | .readRest => t.slotR - t.rdv

/-- The delays of a wire program, in order. -/
def delays (prog : List WireAction) : List Delay :=
  prog.filterMap fun a => match a with
    | .delay d => some d
    | .driveLow | .release | .sample => none

/-- The time a wire program asks to wait. -/
def wireTime (t : Timing) (prog : List WireAction) : Nat := ((delays prog).map (Delay.ns t)).sum

/-- The wire program of an event: only a transaction has one. -/
def Event.program : Event → List WireAction
  | .rst _ => wireReset
  | .w b => wireWrite b
  | .r _ => wireRead
  | .op _ | .oc _ => []

/-- The bus time of an event, as it is asked for: a reset, a write slot and a read slot last their totals (40_bitlink.md R127, R130,
R133), and no other event takes bus time. DESIGN CHOICE (log 26): a write slot lasts T_SLOT_W also where its program
ends before. -/
def Event.ns (t : Timing) : Event → Nat
  | .rst _ => t.rstTotal
  | .w _ => t.slotW
  | .r _ => t.slotR
  | .op _ | .oc _ => 0

/-- The bus time of a list of events, as it is asked for (70_reset_and_hazards.md R284). -/
def busTime (t : Timing) (es : List Event) : Nat := (es.map (Event.ns t)).sum

/-! ### Delays that return late (40_bitlink.md R124; log 28) -/

/-- How long one transaction took: each delay of its wire program, in order, and the whole. It may differ from one
transaction to the next. -/
structure Took where
  waits : List Nat
  total : Nat
  deriving DecidableEq, Repr

/-- Each delay of the wire program returned no sooner than it was asked for (40_bitlink.md R124). -/
def Took.NoSooner (t : Timing) (e : Event) (x : Took) : Prop :=
  List.Forall₂ (fun d w => Delay.ns t d ≤ w) (delays e.program) x.waits

/-- No phase went beyond its maximum: the reset's low and presence phases (40_bitlink.md R125, R126), a write slot's low
phase and total (R128 to R130), a read slot's low phase, sample point and total (R131 to R133). The spec gives the
reset's total no maximum (R127, R135). What is left of a write slot is waited after its program (log 26). -/
def Took.WithinMaxima (t : Timing) (e : Event) (x : Took) : Prop :=
  match e, x.waits with
  | .rst _, [low, wait, _] =>
    low ≤ t.rstlMax ∧ t.presenceFrom ≤ wait ∧ wait ≤ t.presenceTo ∧ x.total = x.waits.sum
  | .w b, [low, _] =>
    low ≤ (if b then 15000 else 120000) ∧ x.waits.sum ≤ x.total ∧ t.slotW ≤ x.total ∧ x.total ≤ 70000
  | .r _, [low, valid, _] =>
    low ≤ 2000 ∧ low + valid ≤ 30000 ∧ x.total = x.waits.sum ∧ x.total ≤ 75000
  | _, _ => x.total = 0

/-- An event may take x on a platform that keeps the contract (40_bitlink.md R124, R135). -/
def Took.Ok (t : Timing) (e : Event) (x : Took) : Prop := x.NoSooner t e ∧ x.WithinMaxima t e

/-- The bus time of a list of events, as it came out. -/
def tookTime (xs : List Took) : Nat := (xs.map Took.total).sum

/-- The numbers of resets, write slots and read slots among the events. -/
def resets (es : List Event) : Nat := es.countP fun e => match e with | .rst _ => true | _ => false

/-- See `resets`. -/
def writes (es : List Event) : Nat := es.countP fun e => match e with | .w _ => true | _ => false

/-- See `resets`. -/
def reads (es : List Event) : Nat := es.countP fun e => match e with | .r _ => true | _ => false

end Sys2Proof.Machine
end

