-- ==== Sys2Proof/Safety.lean ====
section
/-! DEFINITION. The terms in which statements speak of runs: what transactions do to a state, the answers the bus
will give, the invariant of the machine, and which states no host can tell apart. -/

namespace Sys2Proof.Machine

/-! ### Transactions as a whole -/

/-- A released pin whose output level is low, as every transaction leaves it (40_bitlink.md R121; log 18). -/
def Pin.afterSlot : Pin := { dir := .released, level := false }

/-- s once the transactions of es were performed: they stand in the trace, the bus received them, and the pin is
released. -/
def onBus (es : List Event) (s : State) : State :=
  { s with trace := s.trace ++ es, bus := s.bus.replay es, pin := Pin.afterSlot }

/-- The write slots of a run of bits. -/
def writeEvents (bs : List Bool) : List Event := bs.map Event.w

/-- The next n answers to read slots in a row. -/
def Bus.reads : Nat → Bus → List Bool
  | 0, _ => []
  | n + 1, b => b.readBit :: b.afterRead.reads n

/-- The read slots that answer the next n bits. -/
def readEvents (n : Nat) (b : Bus) : List Event := (b.reads n).map Event.r

/-- The write slots of MATCH_ROM and an identifier (30_encoding.md R93). -/
def matchEvents (id : Identifier) : List Event :=
  writeEvents (byteBits Config.cmdMatchRom) ++ writeEvents (idBits id)

/-- The bits of a sample, read k becoming bit k (20_memory.md R59). -/
def sampleOfBits (bs : List Bool) : Half := (BitVec.ofBoolListLE bs).setWidth 16

/-- The Match ROM frame of an identifier, on a bus in the given state (30_encoding.md R93). -/
def matchFrameEvents (id : Identifier) (b : Bus) : List Event :=
  .rst b.presenceBit :: if b.presenceBit then matchEvents id else []

/-- A Match ROM frame that saw presence, and the function command byte after it. -/
def commandEvents (cmd : Byte) (id : Identifier) (b : Bus) : List Event :=
  matchFrameEvents id b ++ writeEvents (byteBits cmd)

/-- The sixteen answers of a Read Scratchpad frame that saw presence. -/
def frameAnswers (id : Identifier) (b : Bus) : List Bool :=
  (b.replay (commandEvents Config.cmdReadScratchpad id b)).reads 16

/-- The Read Scratchpad frame of an identifier, on a bus in the given state (30_encoding.md R94). -/
def readFrameEvents (id : Identifier) (b : Bus) : List Event :=
  if b.presenceBit then commandEvents Config.cmdReadScratchpad id b ++ (frameAnswers id b).map Event.r
  else [.rst false]

/-- The Convert T frame of an identifier, on a bus in the given state (30_encoding.md R95). -/
def convertFrameEvents (id : Identifier) (b : Bus) : List Event :=
  if b.presenceBit then commandEvents Config.cmdConvertT id b else [.rst false]

/-- The cycle of an identifier on a bus in the given state: its Read Scratchpad frame, and then its Convert T frame
(43_sampler.md R180, R181). -/
def cycleEvents (id : Identifier) (b : Bus) : List Event :=
  readFrameEvents id b ++ convertFrameEvents id (b.replay (readFrameEvents id b))

/-- The cycles of a list of identifiers, in order (43_sampler.md R181). -/
def cyclesEvents : List Identifier → Bus → List Event
  | [], _ => []
  | id :: ids, b => cycleEvents id b ++ cyclesEvents ids (b.replay (cycleEvents id b))

/-- The bus where the cycle of device i begins, if every reset before it saw presence. -/
def busAtCycle (s : State) (i : Nat) : Bus :=
  s.bus.replay (cyclesEvents (s.table.toList.take i) s.bus)

/-- The value that SAMPLE_ALL reads from device i (43_sampler.md R184). -/
def sampleAtCycle (s : State) (i : Nat) : Half :=
  sampleOfBits (frameAnswers (tableEntry s i) (busAtCycle s i))

/-- The outcome events among the events. -/
def outcomes (es : List Event) : List OutcomeEvent :=
  es.filterMap fun e => match e with
    | .oc o => some o
    | .op _ | .rst _ | .w _ | .r _ => none

/-! ### Request words the block refuses (30_encoding.md R86) -/

/-- A field the selected OP does not use is not 0: `word[4]` for OP 1, 3, 4, 5, 6 and 7; `word[15:8]` for OP 1, 2,
3, 6, 7 and 8; `word[31:16]` for every OP but 8. -/
def unusedFieldSet (w : Word) : Bool :=
  (w.bitField && decide (w.opField ∈ [1#4, 3#4, 4#4, 5#4, 6#4, 7#4])) ||
    (w.byteField != 0 && decide (w.opField ∈ [1#4, 2#4, 3#4, 6#4, 7#4, 8#4])) ||
    (w.rawField != 0 && w.opField != 8#4)

/-- Why the block, when IDLE, refuses a request word, in the order of precedence of 60_exceptions.md R236; none for
a word it takes up. -/
def refusalOf (w : Word) : Option RefusalReason :=
  if w.reservedField ≠ 0 then some .reservedBits
  else if w.opField.toNat = 0 ∨ 9 ≤ w.opField.toNat then some .unassignedOp
  else if unusedFieldSet w then some .nonzeroUnusedField
  else none

/-! ### Texts (44_formatter.md R204, R206) -/

/-- `Pad3(w)`: the decimal digits of w, right-aligned in three characters. -/
def pad3 (fill : Byte) (w : Nat) : List Byte :=
  ((Nat.toDigits 10 w).map fun c => BitVec.ofNat 8 c.toNat).leftpad 3 fill

/-- The nearest tenth of nib/16, ties up. -/
def nearestTenth (nib : Nat) : Nat := (10 * nib + 8) / 16

/-- The six characters of a reading: the sign, the padded whole degrees, the point, the tenths. -/
def textOf (fill : Byte) (negative : Bool) (whole nib : Nat) : List Byte :=
  (if negative then 0x2D else 0x20) :: (pad3 fill whole ++ [0x2E, 0x30 + BitVec.ofNat 8 (nearestTenth nib)])

/-- The value of a reading in tenths of a degree. -/
def readingTenths (r : Reading) : Int :=
  (if r.negative then -1 else 1) * (10 * r.whole + nearestTenth r.nib : Nat)

/-! ### The invariant -/

/-- While a DISCOVER_ALL stands at its loop test with an unexplored branch, the last identifier appended is in
`idBuf`, and it took the 1 branch at `lastDiscrepancy` (42_enumerator.md R159, R163, R168). -/
def SearchCoherent (s : State) : Prop :=
  s.search.lastDiscrepancy ≠ 0 →
    0 < s.count.val ∧ s.search.idBuf = tableEntry s (s.count.val - 1) ∧
      idBit s.search.idBuf s.search.lastDiscrepancy.val = true

/-- What every step keeps. -/
structure Inv (s : State) : Prop where
  /-- Between transactions the pin is released (10_state.md R29). -/
  released : s.pin.dir = .released
  /-- Every entry of the table passed its CRC (42_enumerator.md R161, R163). -/
  valid : ∀ i < s.count.val, validId (tableEntry s i) = true
  /-- A step finds the block BUSY only at position 0 of a host operation, or in a DISCOVER_ALL at a loop test that goes
  on (10_state.md R30; 42_enumerator.md R152). -/
  busy : ∀ i pos, s.seq = .busy i pos →
    (pos = .start ∧ (hostOpOf i).isSome = true) ∨
      (pos = .loopTest ∧ i = .discoverAll ∧ loopCond s = true ∧ SearchCoherent s)

/-! ### What no host can tell apart -/

/-- The move is one that the host, the platform or a device can make: all but a frame run by itself (30_encoding.md
R101; log 5). -/
def Move.byAgent : Move → Bool
  | .frame _ => false
  | .issue _ | .start _ | .intrude _ => true
  | .blockReset | .resetAfter _ | .landConversion _ | .landAfter _ _ | .population _ => true

/-- Two states that differ at most in what the spec calls unobservable: the search registers while no DISCOVER_ALL
stands at its loop test, and while one does, `idBuf` where no branch is pending, `marker` and `p` (10_state.md R33);
the table entries from `count` on (R26); the level of a released pin (R29); the frame index. -/
structure Alike (s t : State) : Prop where
  count : s.count = t.count
  table : ∀ i < s.count.val, tableEntry s i = tableEntry t i
  samples : s.samples = t.samples
  dir : s.pin.dir = t.pin.dir
  seq : s.seq = t.seq
  result : s.result = t.result
  trace : s.trace = t.trace
  refusals : s.refusals = t.refusals
  bus : s.bus = t.bus
  agenda : s.agenda = t.agenda
  pendingReset : s.pendingReset = t.pendingReset
  params : s.params = t.params
  free : s.free = t.free
  search : ∀ i, s.seq = .busy i .loopTest →
    s.search.lastDiscrepancy = t.search.lastDiscrepancy ∧ s.search.done = t.search.done ∧
      (s.search.lastDiscrepancy ≠ 0 → s.search.idBuf = t.search.idBuf)

/-! ### What a step performs -/

/-- What a move has the block take up, if it does. -/
def Move.packet : Move → Option Packet
  | .issue q | .start q | .intrude q => some q.packet
  | .frame b => some (.busCmd b)
  | .blockReset | .resetAfter _ | .landConversion _ | .landAfter _ _ | .population _ => none

/-- A move that waits while the block is BUSY (60_exceptions.md R240, R245; log 4, log 23). -/
def Move.waits : Move → Bool
  | .issue _ | .start _ | .frame _ | .population _ => true
  | .intrude _ | .blockReset | .resetAfter _ | .landConversion _ | .landAfter _ _ => false

/-- The block performs something in the step from s: from s₀ it gets to t, where no block reset lands in between. It
takes up a packet while IDLE and runs it, or stops at position 0 of it, or, while BUSY, it goes on with its operation,
which no move that waits prevents (60_exceptions.md R240; log 4). -/
def Performs (s s₀ t : State) : Prop :=
  (∃ m rest p i, s.seq = .idle ∧ s.agenda = m :: rest ∧ m.packet = some p ∧ (∀ q, m ≠ .start q) ∧
    decode p = .ok i ∧ s₀ = { s with agenda := rest } ∧ exec i s₀ = .next t) ∨
  (∃ rest q i o, s.seq = .idle ∧ s.agenda = .start q :: rest ∧ decode q.packet = .ok i ∧ hostOpOf i = some o ∧
    s₀ = { s with agenda := rest } ∧ t = startOp o i s₀) ∨
  (∃ i pos, s.seq = .busy i pos ∧
    (s.agenda = [] ∨ ∃ m rest, s.agenda = m :: rest ∧ m.waits = true) ∧
    s₀ = s ∧ t = goOn i pos s)

/-! ### Running on -/

/-- n steps, stopping at a fault or a refusal (there is none). -/
def runSteps (n : Nat) (s : State) : Host.Outcome State Fault Refusal :=
  match n with
  | 0 => .next s
  | k + 1 =>
    match step s with
    | .next t => runSteps k t
    | .fault f => .fault f
    | .refused r => .refused r

end Sys2Proof.Machine
end

