-- ==== Sys2Proof/Certificates/Slice0/Obligations.lean ====
section
/-! DEFINITION. The statements about the machine, for the provers. Each docstring names the rules of spec/ it
formalises. -/

open Sys2Proof Sys2Proof.Machine

/-! ### Encoding (30_encoding.md) -/

/-- Every well-formed instruction is read back from its own encoding (30_encoding.md R81, R90, R98, R99). -/
def Obligations.DecodeOfEncode : Prop :=
  ∀ i : Instr, i.wellFormed = true → decode (encode i) = .ok i

/-- A word has one meaning: what decodes to an instruction is that instruction's encoding, and the instruction is
well-formed (30_encoding.md R81, R98). The packet carries exactly the data bytes its word asks for (R85). -/
def Obligations.EncodeOfDecode : Prop :=
  ∀ (p : Packet) (i : Instr), p.wellFormed = true → decode p = .ok i → encode i = p ∧ i.wellFormed = true

/-- Exactly the words of 30_encoding.md R86 are refused, with the reason 60_exceptions.md R236 ranks first. -/
def Obligations.RefusedWordsAndReasons : Prop :=
  ∀ (w : Word) (data : List Byte) (r : RefusalReason),
    decode (.hostOp w data) = .error r ↔ refusalOf w = some r

/-- The four bus command bytes of 30_encoding.md R90; that any other byte is refused unassigned_op is the model's
choice (log 6). No request word of the host, whatever stands beside it, decodes to a bus command: the sub-procedures are
not host-invocable (R101). -/
def Obligations.BusCommandBytes : Prop :=
  decode (.busCmd 0xF0) = .ok .searchRom ∧ decode (.busCmd 0x55) = .ok .matchRom ∧
    decode (.busCmd 0xBE) = .ok .readScratchpad ∧ decode (.busCmd 0x44) = .ok .convertT ∧
    (∀ b : Byte, b ∉ [0xF0#8, 0x55#8, 0xBE#8, 0x44#8] → decode (.busCmd b) = .error .unassignedOp) ∧
    ∀ (q : Request) (i : Instr), decode q.packet = .ok i → (hostOpOf i).isSome = true

/-- Words of 95_test_vectors.md section 2.1, written out there from the encoding tables. -/
def Obligations.DecodedWords : Prop :=
  decode (.hostOp 0x00000001 []) = .ok .owReset ∧ decode (.hostOp 0x00000012 []) = .ok (.owWriteBit true) ∧
    decode (.hostOp 0x0000F004 []) = .ok (.owWriteByte 0xF0) ∧
    decode (.hostOp 0x00000105 [0x80]) = .ok (.crc8 [0x80]) ∧
    decode (.hostOp 0x00000006 []) = .ok .discoverAll ∧ decode (.hostOp 0x00000007 []) = .ok .sampleAll ∧
    decode (.hostOp 0x07D00018 []) = .ok (.format .fahrenheit 0x07D0) ∧
    decode (.hostOp 0x00001015 []) = .error .nonzeroUnusedField ∧
    decode (.hostOp 0x000000E9 []) = .error .reservedBits

/-! ### The step -/

/-- A step runs the decoded instruction: the first move of the agenda presents a packet while the block is IDLE, the
packet decodes to i, and the step is exec of i with that move taken off the agenda. That the block takes a word up while
IDLE is 60_exceptions.md R240; the rest is the model's: the agenda (log 3), the moves issue and intrude, of a host that
would wait and one that would not, which are alike while IDLE (log 4), the move frame, which is no host's and runs a bus
command as an instruction (log 5), the whole operation, or one pass of it, as one
step (log 2, of the choices of 10_state.md R30), and the pending block reset that may land in it (log 13). The move
start is in `OperationFromPositionZero`. -/
def Obligations.StepRunsDecodedInstruction : Prop :=
  ∀ (s : State) (m : Move) (p : Packet) (rest : List Move) (i : Instr),
    s.seq = .idle → s.agenda = m :: rest → m.packet = some p → (∀ q, m ≠ .start q) → decode p = .ok i →
    step s = landIn { s with agenda := rest } (exec i { s with agenda := rest }) ∧
      (s.pendingReset = none → step s = exec i { s with agenda := rest })

/-- A refused word performs nothing and changes nothing but the refusal mark (30_encoding.md R86; 60_exceptions.md
R236): while IDLE with the decoder's reason, however the host presents it (the moves issue, start and intrude: log 4),
and so a byte that is no bus command (log 6); while BUSY, presented without waiting, with the reason busy, whatever the
word. -/
def Obligations.RefusedWordChangesNothing : Prop :=
  ∀ (s : State) (m : Move) (p : Packet) (rest : List Move), s.agenda = m :: rest →
    (∀ r, s.seq = .idle → m.packet = some p → decode p = .error r →
      step s = .next { s with agenda := rest, refusals := s.refusals ++ [r] }) ∧
    (∀ q, s.seq ≠ .idle → m = .intrude q →
      step s = .next { s with agenda := rest, refusals := s.refusals ++ [.busy] })

/-- With no request to take up, an IDLE block waits (70_reset_and_hazards.md R271; log 20), and a BUSY block goes on,
while a host that does its duty waits (60_exceptions.md R240), and a change of the population too (R245; log 23), and a
frame run by itself (log 5): at the loop test of DISCOVER_ALL the step is one turn of the loop (42_enumerator.md R152;
log 2). The moves of the devices: a conversion that lands, now, sets the scratchpad of its device to the sign-extended
12-bit temperature (60_exceptions.md R245) and clears `pending`, where it is pending, and changes no other device,
whatever the block does (R255); one that is to land k transactions later is noted (log 15). While IDLE the population changes as it is told (R245). -/
def Obligations.StepWithoutRequest : Prop :=
  ∀ s : State,
    (s.seq = .idle → s.agenda = [] → step s = .next s) ∧
    (∀ (m : Move) (rest : List Move), s.seq = .busy .discoverAll .loopTest →
      (s.agenda = [] ∨ (s.agenda = m :: rest ∧ m.waits = true)) →
      s.pendingReset = none → step s = .next (discoverTurn s)) ∧
    (∀ (i : Nat) (rest : List Move) (ds : List Device) (f : LineFault),
      (s.agenda = .landConversion i :: rest ∨ s.agenda = .landAfter 0 i :: rest) →
      s.bus.population = .reference ds f →
      ∃ es, step s = .next { s with agenda := rest, bus := { s.bus with population := .reference es f } } ∧
        es.length = ds.length ∧
        ∀ j d, ds[j]? = some d →
          es[j]? = some (if j = i ∧ d.pending = true then { d with sp := d.conv.signExtend 16, pending := false } else d)) ∧
    (∀ (k i : Nat) (rest : List Move), s.agenda = .landAfter (k + 1) i :: rest →
      step s = .next { s with agenda := rest, bus := { s.bus with
        landings := s.bus.landings ++ [{ transactions := k + 1, device := i }] } }) ∧
    (∀ (q : Population) (rest : List Move), s.seq = .idle → s.agenda = .population q :: rest →
      step s = .next { s with agenda := rest, bus := { s.bus with population := q } })

/-- A host operation held at position 0: the step that takes its word up records its start and leaves the block BUSY
with it, and the next step, where no other move falls in between, gives what exec gives (10_state.md R30, R37;
60_exceptions.md R240; log 2). -/
def Obligations.OperationFromPositionZero : Prop :=
  ∀ (s : State) (q : Request) (i : Instr) (o : HostOp), s.seq = .idle → s.agenda = [.start q] →
    decode q.packet = .ok i → hostOpOf i = some o → s.pendingReset = none →
    ∃ t, step s = .next t ∧ t.seq = .busy i .start ∧ t.trace = s.trace ++ [.op o] ∧ t.bus = s.bus ∧
      step t = exec i { s with agenda := [] }

/-- The block has no fault and is never stuck: every step answers a next state (60_exceptions.md R236). -/
def Obligations.EveryStepAnswersNext : Prop :=
  ∀ s : State, ∃ t, step s = .next t

/-- A block reset, while IDLE or BUSY, gives the block the values of 10_state.md R36 and does not reach the bus
population (70_reset_and_hazards.md R270). That it leaves the trace is the model's reading of 10_state.md R37, under
which the trace belongs to the run (log 25), and that it leaves the refusal mark is log 16. -/
def Obligations.BlockResetEffect : Prop :=
  ∀ (s : State) (rest : List Move), s.agenda = .blockReset :: rest →
    ∃ t, step s = .next t ∧ t.seq = .idle ∧ t.result = .noValue ∧ t.count = 0 ∧
      t.samples = Vector.replicate 5 s.params.sentinel ∧ t.pin.dir = .released ∧
      t.bus = s.bus ∧ t.trace = s.trace ∧ t.refusals = s.refusals ∧ t.params = s.params ∧ t.agenda = rest

/-- The values the spec gives for reset (10_state.md R36; SENTINEL at its default, decision D11). -/
def Obligations.ResetStateValues : Prop :=
  State.reset.seq = .idle ∧ State.reset.result = .noValue ∧ State.reset.count = 0 ∧
    State.reset.samples = Vector.replicate 5 0x8000 ∧ State.reset.pin.dir = .released ∧
    sentinelOk State.reset.params = true

/-- A block reset that lands after k transactions of what the block performs in a step: an operation it takes up while
IDLE, or, while it is BUSY, the operation it goes on with from position 0, or a later pass of a DISCOVER_ALL, which is
the way out of a hang (42_enumerator.md R166). Exactly k transactions of it stand in the trace and reached the bus, no
outcome was raised after them, and the block is reset (70_reset_and_hazards.md R270; 10_state.md R36). That a reset
lands between transactions, never inside one, is the model's (log 13), and so are the steps (log 2), and that the trace
and the refusal mark are kept (log 25, log 16). Before that the platform plans the reset, which changes nothing else,
while IDLE or BUSY; and what performs fewer transactions than k goes its whole way and leaves the reset pending, with
what is left of k (log 13). -/
def Obligations.ResetLandsAfterTransactions : Prop :=
  (∀ (s : State) (k : Nat) (rest : List Move), s.agenda = .resetAfter k :: rest →
    step s = .next { s with agenda := rest, pendingReset := some k }) ∧
  ∀ (s s₀ t : State) (k : Nat), s.pendingReset = some k → Performs s s₀ t →
    let n := transactions (t.trace.drop s.trace.length)
    (n < k → step s = .next { t with pendingReset := some (k - n) }) ∧
    (k ≤ n →
      ∃ u es, step s = .next u ∧ es <+: t.trace.drop s.trace.length ∧ transactions es = k ∧
        (∀ o, es.getLast? ≠ some (.oc o)) ∧ u.trace = s.trace ++ es ∧ u.bus = s.bus.replay es ∧
        u.seq = .idle ∧ u.result = .noValue ∧ u.count = 0 ∧
        u.samples = Vector.replicate 5 s.params.sentinel ∧ u.pin.dir = .released ∧
        u.refusals = s.refusals ∧ u.pendingReset = none ∧ u.agenda = s₀.agenda)

/-! ### What every step keeps -/

/-- The invariant holds at reset (10_state.md R29, R36). -/
def Obligations.InvAtReset : Prop := Inv State.reset

/-- Every step keeps the invariant: the pin is released between transactions (10_state.md R29), every table entry
below count passed its CRC (42_enumerator.md R161 to R163), and a step finds the block BUSY either at position 0
of a host operation or at the loop test of a DISCOVER_ALL that goes on, with the last identifier in idBuf where a
branch is pending (R152, R159, R168). That these two positions are the only ones a step finds is the model's: it follows
from the steps of log 2, of the choices of 10_state.md R30, and the hardware passes through others. -/
def Obligations.StepKeepsInv : Prop :=
  ∀ s t : State, Inv s → step s = .next t → Inv t

/-- The trace and the refusal mark only grow (10_state.md R37; 60_exceptions.md R236), and no step changes the
parameters. That the trace grows through a block reset too is the model's reading (log 25), that a refusal is recorded in
a list is log 16, and that the parameters stand in State, fixed, is log 10. -/
def Obligations.TraceAndRefusalsOnlyGrow : Prop :=
  ∀ s t : State, step s = .next t →
    s.trace <+: t.trace ∧ s.refusals <+: t.refusals ∧ t.params = s.params

/-- No instruction reaches the bus but by the transactions in the trace: the bus is as those transactions leave it,
and the agenda, the refusal mark and the parameters are untouched (20_memory.md R52, R67). And no step reaches it
otherwise, but the moves of the devices: a conversion that lands or is to land (60_exceptions.md R255; that it may be
planned, to land between two transactions, is log 15), and, only while the block is IDLE, a change of the population
(R245; log 23). Where a block reset lands in the step, that the bus got whole transactions only is the model's (log 13:
the hardware may cut a slot short, 70_reset_and_hazards.md R270), and so is that the trace is kept over it (log 25). -/
def Obligations.BusReceivesExactlyTheTrace : Prop :=
  (∀ (i : Instr) (s : State), ∃ t es, exec i s = .next t ∧ t.trace = s.trace ++ es ∧ t.bus = s.bus.replay es ∧
    t.agenda = s.agenda ∧ t.refusals = s.refusals ∧ t.pendingReset = s.pendingReset ∧ t.params = s.params) ∧
  ∀ s t : State, step s = .next t → ∃ es, t.trace = s.trace ++ es ∧
    (t.bus = s.bus.replay es ∨ (es = [] ∧ ∃ m rest, s.agenda = m :: rest ∧ t.agenda = rest ∧
      ((∃ i, m = .landConversion i ∧ t.bus = { s.bus with population := s.bus.population.land i }) ∨
        (∃ k i, m = .landAfter k i ∧ t.bus = s.bus.planLanding k i) ∨
        ∃ q, m = .population q ∧ s.seq = .idle ∧ t.bus = { s.bus with population := q })))

/-- No host can tell apart states that differ only in what the spec calls unobservable: each step of one is matched
by the other, and the views stay equal (10_state.md R33; 42_enumerator.md R168). The agenda holds moves of the agents
only, and no frame run by itself, which none of them can ask for (30_encoding.md R101; log 5). -/
def Obligations.HostCannotTellSearchState : Prop :=
  ∀ s t s' : State, Inv s → Alike s t → s.agenda.all Move.byAgent = true → step s = .next s' →
    ∃ t', step t = .next t' ∧ Alike s' t' ∧ hostView s' = hostView t'

/-! ### BitLink (40_bitlink.md) -/

/-- OW_RESET: one reset transaction, whose presence value is the result; no outcome (40_bitlink.md R110, R111). That
the released pin's level is 0 is the model's: the spec says any value (10_state.md R36; log 18). -/
def Obligations.OwResetEffect : Prop :=
  ∀ s : State, exec .owReset s = .next { s with
    trace := s.trace ++ [.op .owReset, .rst s.bus.presenceBit]
    bus := s.bus.afterReset
    pin := { dir := .released, level := false }
    result := .bit s.bus.presenceBit
    seq := .idle }

/-- OW_WRITE_BIT: one write slot of B, and no value (40_bitlink.md R112, R113). That the released pin's level is 0 is
the model's: the spec says any value (10_state.md R36; log 18). -/
def Obligations.OwWriteBitEffect : Prop :=
  ∀ (b : Bool) (s : State), exec (.owWriteBit b) s = .next { s with
    trace := s.trace ++ [.op .owWriteBit, .w b]
    bus := s.bus.afterWrite b
    pin := { dir := .released, level := false }
    result := .noValue
    seq := .idle }

/-- OW_READ_BIT: one read slot, whose bit is the result (40_bitlink.md R114, R115). That the released pin's level is 0
is the model's: the spec says any value (10_state.md R36; log 18). -/
def Obligations.OwReadBitEffect : Prop :=
  ∀ s : State, exec .owReadBit s = .next { s with
    trace := s.trace ++ [.op .owReadBit, .r s.bus.readBit]
    bus := s.bus.afterRead
    pin := { dir := .released, level := false }
    result := .bit s.bus.readBit
    seq := .idle }

/-- OW_WRITE_BYTE: the eight write slots of V, least significant bit first, and no value (40_bitlink.md R116,
R117). That the released pin's level is 0 is the model's: the spec says any value (10_state.md R36; log 18). -/
def Obligations.OwWriteByteEffect : Prop :=
  ∀ (v : Byte) (s : State), exec (.owWriteByte v) s = .next { s with
    trace := s.trace ++ [.op .owWriteByte, .w (v.getLsbD 0), .w (v.getLsbD 1), .w (v.getLsbD 2), .w (v.getLsbD 3),
      .w (v.getLsbD 4), .w (v.getLsbD 5), .w (v.getLsbD 6), .w (v.getLsbD 7)]
    bus := (byteBits v).foldl (fun b x => b.afterWrite x) s.bus
    pin := { dir := .released, level := false }
    result := .noValue
    seq := .idle }

/-- `WriteByte(v)` is exactly eight write slots, `BusWrite(v[0])` to `BusWrite(v[7])`, and nothing else
(40_bitlink.md R116). -/
def Obligations.WriteByteIsEightSlots : Prop :=
  ∀ (v : Byte) (s : State),
    writeByte v s = busWrite (v.getLsbD 7) (busWrite (v.getLsbD 6) (busWrite (v.getLsbD 5) (busWrite (v.getLsbD 4)
      (busWrite (v.getLsbD 3) (busWrite (v.getLsbD 2) (busWrite (v.getLsbD 1) (busWrite (v.getLsbD 0) s))))))) ∧
    (writeByte v s).trace.length = s.trace.length + 8

/-- `ReadBits(16)`: sixteen read slots, and read k becomes bit k of the value (40_bitlink.md R118; 20_memory.md
R59). The whole next state that `onBus` gives has the released pin's level at 0, which is the model's (log 18). -/
def Obligations.SampleBitsAreReadsInOrder : Prop :=
  ∀ s : State, (readSample s).2 = onBus (readEvents 16 s.bus) s ∧
    ∀ k < 16, some ((readSample s).1.getLsbD k) = (s.bus.reads 16)[k]?

/-- Every transaction starts by driving the line low and ends with it released, and at no point of its wire program
is the line driven high (40_bitlink.md R121; 10_state.md R29). -/
def Obligations.PinOnlyDrivenLow : Prop :=
  ∀ prog ∈ [wireReset, wireWrite true, wireWrite false, wireRead], ∀ p : Pin,
    (p.run (prog.take 1)).contribution = false ∧ (p.run prog).dir = .released ∧ (p.run prog).contribution = true ∧
      ∀ n, 1 ≤ n → (p.run (prog.take n)).dir = .driven → (p.run (prog.take n)).level = false

/-! ### Crc8 (41_crc8.md) -/

/-- CRC8: the result is the CRC of the data, and nothing else happens (41_crc8.md R141). -/
def Obligations.Crc8Effect : Prop :=
  ∀ (data : List Byte) (s : State), exec (.crc8 data) s = .next { s with
    trace := s.trace ++ [.op .crc8], result := .byte (crc8 data), seq := .idle }

/-- The CRC is the computation of 41_crc8.md R140: it starts from 0, and each byte, bit by bit from the least significant,
is XORed with bit 0 of the checksum, which shifts right and takes the feedback byte 0x8C; with the corner values of R141.
It is linear over XOR, a sequence followed by its own CRC has CRC 0, and a leading zero byte changes nothing (R142,
properties 1 to 3). -/
def Obligations.CrcAlgebra : Prop :=
  (crc8 [] = 0 ∧ ∀ (d : List Byte) (v : Byte), crc8 (d ++ [v]) = (List.range 8).foldl (fun (c : Byte) i =>
    let x := c.getLsbD 0 ^^ v.getLsbD i
    if x then (c >>> 1) ^^^ 0x8C else c >>> 1) (crc8 d)) ∧
  crc8 [0x80] = 0x8C ∧ crc8 [0x01] = 0x5E ∧ (∀ k, crc8 (List.replicate k 0) = 0) ∧
  (∀ a b : List Byte, a.length = b.length →
    crc8 (List.zipWith (fun x y => x ^^^ y) a b) = crc8 a ^^^ crc8 b) ∧
  ∀ d : List Byte, crc8 (d ++ [crc8 d]) = 0 ∧ crc8 (0 :: d) = crc8 d

/-- A single-bit change always changes the CRC (41_crc8.md R142, property 4). -/
def Obligations.CrcSeesSingleBitErrors : Prop :=
  ∀ (d e : List Byte) (v : Byte) (k : Nat), k < 8 →
    crc8 (d ++ putBit v k (!v.getLsbD k) :: e) ≠ crc8 (d ++ v :: e)

/-- An identifier is valid iff the CRC of bytes 0 to 6 is byte 7, and iff the CRC of all eight bytes is 0
(41_crc8.md R143). -/
def Obligations.ValidIdIffResidueZero : Prop :=
  ∀ id : Identifier, (validId id = true ↔ crc8 (id.toList.take 7) = id[7]) ∧ (validId id = true ↔ crc8 id.toList = 0)

/-- Two valid identifiers never differ in exactly one bit (41_crc8.md R142; conflict C4). -/
def Obligations.ValidIdsNeverOneBitApart : Prop :=
  ∀ (id : Identifier) (p : Nat), 1 ≤ p → p ≤ 64 → validId id = true →
    validId (setIdBit id p (!idBit id p)) = false

/-! ### DeviceEnumerator (42_enumerator.md) -/

/-- The direction and the marker at a position: agreement (42_enumerator.md R157), and the three cases of a
discrepancy (R159). -/
def Obligations.DirectionRule : Prop :=
  ∀ (p : Fin 65) (r : Search),
    chooseDirection true false p r = (true, r.marker) ∧
    chooseDirection false true p r = (false, r.marker) ∧
    (p < r.lastDiscrepancy → idBit r.idBuf p.val = true → chooseDirection false false p r = (true, p)) ∧
    (p < r.lastDiscrepancy → idBit r.idBuf p.val = false → chooseDirection false false p r = (false, r.marker)) ∧
    (p = r.lastDiscrepancy → chooseDirection false false p r = (false, r.marker)) ∧
    (r.lastDiscrepancy < p → chooseDirection false false p r = (true, p))

/-- A search position: two reads; where both are 1 nothing is written; else the chosen direction is written to the bus
and into idBuf at that position, and no other position of idBuf changes (42_enumerator.md R160). -/
def Obligations.SearchPositionEffect : Prop :=
  ∀ (p : Fin 65) (s : State), 1 ≤ p.val →
    let a := s.bus.readBit
    let b := s.bus.afterRead.readBit
    let d := (chooseDirection a b p s.search).1
    let t := (searchPosition p s).2
    (a = true ∧ b = true → (searchPosition p s).1 = false ∧ t.trace = s.trace ++ [.r a, .r b] ∧
      t.search = { s.search with p := p }) ∧
    (¬(a = true ∧ b = true) → (searchPosition p s).1 = true ∧ t.trace = s.trace ++ [.r a, .r b, .w d] ∧
      t.search.marker = (chooseDirection a b p s.search).2 ∧ idBit t.search.idBuf p.val = d ∧
      (∀ q, 1 ≤ q → q ≤ 64 → q ≠ p.val → idBit t.search.idBuf q = idBit s.search.idBuf q) ∧
      t.search.lastDiscrepancy = s.search.lastDiscrepancy ∧ t.search.done = s.search.done)

/-- The transactions of a pass: 1 with no presence, 1 + 8 + 3(p - 1) + 2 where position p reads (1,1), and 201 when
it is complete: 1 reset, 72 write slots and 128 read slots (42_enumerator.md R169; 70_reset_and_hazards.md R284). -/
def Obligations.PassTransactionCounts : Prop :=
  ∀ s : State, ∃ es, (searchFrame s).2.trace = s.trace ++ es ∧
    match (searchFrame s).1 with
    | .absent => transactions es = 1
    | .noResponse p => 1 ≤ p ∧ p ≤ 64 ∧ transactions es = 1 + 8 + 3 * (p - 1) + 2
    | .complete => transactions es = 201 ∧ resets es = 1 ∧ writes es = 72 ∧ reads es = 128

/-- The end of a pass that took all positions: a valid candidate is appended (42_enumerator.md R163), another is
discarded with SEARCH_ABORT, cause CRC (R161, R162). That the table entries past the new one, and from count on where the
candidate is discarded, keep what they held is the model's: the spec lets them hold any value (10_state.md R26; log
27). -/
def Obligations.CandidateValidation : Prop :=
  ∀ s : State, s.count.val < 5 →
    (validId s.search.idBuf = true →
      (validate s).count.val = s.count.val + 1 ∧ tableEntry (validate s) s.count.val = s.search.idBuf ∧
      (∀ i, i ≠ s.count.val → tableEntry (validate s) i = tableEntry s i) ∧
      (validate s).search.lastDiscrepancy = s.search.marker ∧
      (validate s).search.done = (s.search.done || decide (s.search.marker = 0)) ∧
      (validate s).trace = s.trace ∧ (validate s).bus = s.bus) ∧
    (validId s.search.idBuf = false →
      validate s = { s with
        search := { s.search with lastDiscrepancy := 0 }
        trace := s.trace ++ [.oc (.searchAbortCrc (idCrc s.search.idBuf) (idByte s.search.idBuf 7))] })

/-- DISCOVER_ALL with no presence at its first reset: BUS_ABSENT, an empty table, result 0, and no Search ROM byte
(42_enumerator.md R151, R153). The whole next state has the released pin's level at 0 (log 18), the search registers
as they stand at the return (log 19), and the table entries, none of which is readable, as they were (log 27): these are
the model's, the spec leaves them open (10_state.md R26, R33, R36). -/
def Obligations.DiscoverOnAbsentBus : Prop :=
  ∀ s : State, s.bus.presenceBit = false → exec .discoverAll s = .next { s with
    trace := s.trace ++ [.op .discoverAll, .rst false, .oc .busAbsentDiscover]
    bus := s.bus.afterReset
    pin := { dir := .released, level := false }
    count := 0
    search := { s.search with lastDiscrepancy := 0, done := false }
    result := .count 0
    seq := .idle }

/-- DISCOVER_ALL's first step, for every bus: it returns with result count, or stays BUSY at a loop test that goes
on with the result as it was; it writes neither samples nor the frame index (42_enumerator.md R150, R152, R164,
R171). That one step is one pass is the model's granularity (log 2). -/
def Obligations.DiscoverAllAnswers : Prop :=
  ∀ s : State, ∃ t, exec .discoverAll s = .next t ∧ t.samples = s.samples ∧ t.index = s.index ∧
    t.free = s.free ∧ t.count.val ≤ 1 ∧
    ((t.seq = .idle ∧ t.result = .count t.count.val) ∨
      (t.seq = .busy .discoverAll .loopTest ∧ loopCond t = true ∧ t.result = s.result))

/-- The loop test after a pass: with the search finished the operation returns count; with the table full and the
search unfinished it raises CAPACITY_EXCEEDED first; else it stays BUSY for the next pass (42_enumerator.md R152, R164;
60_exceptions.md R234). And a turn of the loop that ends the operation, in whatever way, BUS_ABSENT included (R153), has
count for its result, and raised CAPACITY_EXCEEDED exactly where count is 5 and done is 0. One turn a step is log 2, and
that the search registers stay as they are at the return is log 19, and that the table's entries from count on do is
log 27. -/
def Obligations.CapacityRule : Prop :=
  ∀ s : State,
    (s.search.done = true → discoverLoop s = { s with result := .count s.count.val, seq := .idle }) ∧
    (s.search.done = false → s.count = 5 →
      discoverLoop s = { s with
        trace := s.trace ++ [.oc (.capacityExceeded 5)], result := .count 5, seq := .idle }) ∧
    (s.search.done = false → s.count ≠ 5 → discoverLoop s = { s with seq := .busy .discoverAll .loopTest }) ∧
    (loopCond s = true → (discoverTurn s).seq = .idle →
      ∃ es, (discoverTurn s).trace = s.trace ++ es ∧
        (discoverTurn s).result = .count (discoverTurn s).count.val ∧
        ∀ n, Event.oc (.capacityExceeded n) ∈ es ↔
          n = 5 ∧ (discoverTurn s).count = 5 ∧ (discoverTurn s).search.done = false)

/-- The outcomes of one turn of DISCOVER_ALL's loop: at most one, and CAPACITY_EXCEEDED never after a failed pass or
an absent bus (60_exceptions.md R238). BUS_ABSENT, in whichever pass, returns the partial table as it was, with its
count for result (42_enumerator.md R153; conflict C10). A SEARCH_ABORT of either cause sets lastDiscrepancy to 0 and leaves
count, table and done, and the operation goes on (R158, R161, R162). One turn a step is log 2; that done keeps its value
after the return is log 19, and that the table's entries from count on keep theirs is log 27. -/
def Obligations.OutcomesOfOneTurn : Prop :=
  ∀ s : State, ∃ es, (discoverTurn s).trace = s.trace ++ es ∧
    let t := discoverTurn s
    let kept := t.count = s.count ∧ t.table = s.table ∧ t.search.done = s.search.done
    let failed := t.seq = .busy .discoverAll .loopTest ∧ t.search.lastDiscrepancy = 0 ∧ t.result = s.result
    (outcomes es = [] ∨
      (outcomes es = [.busAbsentDiscover] ∧ t.seq = .idle ∧ t.result = .count s.count.val ∧ kept) ∨
      (∃ p, 1 ≤ p ∧ p ≤ 64 ∧ outcomes es = [.searchAbortNoResponse p] ∧ failed ∧ kept) ∨
      (∃ c d, c ≠ d ∧ outcomes es = [.searchAbortCrc c d] ∧ failed ∧ kept) ∨
      (outcomes es = [.capacityExceeded 5] ∧ t.seq = .idle ∧ t.count = 5 ∧ t.result = .count 5))

/-- One device of the reference population with a valid identifier is discovered in exactly one pass of 201
transactions, with no outcome (42_enumerator.md R150, R165, R166, R169, for N = 1). -/
def Obligations.OneDeviceDiscovered : Prop :=
  ∀ (s : State) (d : Device), s.bus.population = .reference [d] .noFault → s.bus.script = [] →
    validId d.rom = true →
    ∃ t es, exec .discoverAll s = .next t ∧ t.seq = .idle ∧ t.result = .count 1 ∧ t.count = 1 ∧
      tableEntry t 0 = d.rom ∧ t.trace = s.trace ++ es ∧ transactions es = 201 ∧ outcomes es = []

/-- Two devices of the reference population with valid, different identifiers are discovered in exactly two passes,
the greater search key first, with no outcome (42_enumerator.md R165, R166 for N = 2; conflicts C3, C4). The devices
are given in that order here; any order of the population is in `StableBusDiscovery`. One pass a step is the model's
(log 2). -/
def Obligations.TwoDevicesDiscovered : Prop :=
  ∀ (s : State) (d e : Device), s.bus.population = .reference [d, e] .noFault → s.bus.script = [] →
    validId d.rom = true → validId e.rom = true → searchKey e.rom < searchKey d.rom →
    s.agenda = [] → s.pendingReset = none →
    ∃ t u es, exec .discoverAll s = .next t ∧ t.seq = .busy .discoverAll .loopTest ∧ t.count = 1 ∧
      step t = .next u ∧ u.seq = .idle ∧ u.result = .count 2 ∧ u.count = 2 ∧
      tableEntry u 0 = d.rom ∧ tableEntry u 1 = e.rom ∧
      u.trace = s.trace ++ es ∧ transactions es = 402 ∧ outcomes es = []

/-- DISCOVER_ALL on a stable bus of one or more devices with valid, different identifiers: exactly min(N, 5) passes,
one a step, each of 201 transactions; the table then holds the min(N, 5) identifiers of the greatest search keys, in
decreasing order of key; the one outcome is CAPACITY_EXCEEDED, where N is more than 5 (42_enumerator.md R164 to R166,
R169; log 2). -/
def Obligations.StableBusDiscovery : Prop :=
  ∀ (s : State) (ds : List Device), s.bus.population = .reference ds .noFault → s.bus.script = [] → ds ≠ [] →
    (∀ d ∈ ds, validId d.rom = true) → ds.Pairwise (fun d e => d.rom ≠ e.rom) →
    s.agenda = [] → s.pendingReset = none →
    ∃ t u es, exec .discoverAll s = .next t ∧ runSteps (min ds.length 5 - 1) t = .next u ∧
      u.seq = .idle ∧ u.count.val = min ds.length 5 ∧ u.result = .count u.count.val ∧
      u.trace = s.trace ++ es ∧ transactions es = 201 * min ds.length 5 ∧
      outcomes es = (if 5 < ds.length then [.capacityExceeded 5] else []) ∧
      let found := u.table.toList.take u.count.val
      (found.map searchKey).Pairwise (· > ·) ∧ (∀ id ∈ found, ∃ d ∈ ds, d.rom = id) ∧
        ∀ d ∈ ds, d.rom ∉ found → ∀ id ∈ found, searchKey d.rom < searchKey id

/-- On a line stuck low DISCOVER_ALL never returns: however many steps follow, the block is BUSY and the table empty
(42_enumerator.md R166; 70_reset_and_hazards.md R279; 60_exceptions.md R236, the hang). One pass a step is the model's
(log 2). -/
def Obligations.StuckLineHangsDiscovery : Prop :=
  ∀ (s : State) (ds : List Device) (n : Nat), s.bus.population = .reference ds .stuckLow → s.bus.script = [] →
    s.agenda = [] → s.pendingReset = none →
    ∃ t u, exec .discoverAll s = .next t ∧ runSteps n t = .next u ∧
      u.seq = .busy .discoverAll .loopTest ∧ u.count = 0

/-- SEARCH_ROM: the frame of 30_encoding.md R92: the reset; with presence the byte 0xF0 and then the triplets, 64 of
them or ended early by two reads of 1 with no write; where the reads differ the direction is the devices' bit
(42_enumerator.md R157); its choice where both are 0 is in `DirectionRule` and `SearchPositionEffect`. Of the block's
registers only idBuf, marker and p may change. That a bus command runs as an instruction is log 5, and that the released
pin's level is 0 is log 18. -/
def Obligations.SearchRomFrame : Prop :=
  ∀ s : State, ∃ t rest, exec .searchRom s = .next t ∧
    t.trace = s.trace ++ .rst s.bus.presenceBit :: rest ∧
    (s.bus.presenceBit = false → rest = []) ∧
    (s.bus.presenceBit = true → ∃ (ts : List (Bool × Bool × Bool)) (tail : List Event),
      rest = writeEvents [false, false, false, false, true, true, true, true] ++
        ts.flatMap (fun x => [.r x.1, .r x.2.1, .w x.2.2]) ++ tail ∧
      ((ts.length = 64 ∧ tail = []) ∨ (ts.length < 64 ∧ tail = [.r true, .r true])) ∧
      ∀ x ∈ ts, ¬(x.1 = true ∧ x.2.1 = true) ∧ (x.1 ≠ x.2.1 → x.2.2 = x.1)) ∧
    t.search.lastDiscrepancy = s.search.lastDiscrepancy ∧ t.search.done = s.search.done ∧
    t.count = s.count ∧ t.table = s.table ∧ t.samples = s.samples ∧ t.seq = s.seq ∧ t.result = s.result ∧
    t.index = s.index ∧ t.free = s.free ∧ t.pin = { dir := .released, level := false }

/-! ### TemperatureSampler (43_sampler.md) -/

/-- MATCH_ROM: the frame of 30_encoding.md R93 for the device of the frame index, and nothing else. That a bus command
runs as an instruction is log 5, and that the released pin's level, in `onBus`, is 0 is log 18. -/
def Obligations.MatchRomFrame : Prop :=
  ∀ s : State,
    exec .matchRom s = .next (onBus (.rst s.bus.presenceBit ::
      if s.bus.presenceBit then
        writeEvents [true, false, true, false, true, false, true, false] ++
          writeEvents (idBits (tableEntry s s.index.val))
      else []) s)

/-- READ_SCRATCHPAD: the frame of 30_encoding.md R94: with presence the Match ROM frame, the byte 0xBE and sixteen
reads, whose value goes unchanged into the samples slot of the frame index; without, the one reset. That a bus command
runs as an instruction is log 5, and that the released pin's level, in `onBus`, is 0 is log 18. -/
def Obligations.ReadScratchpadFrame : Prop :=
  ∀ s : State,
    (s.bus.presenceBit = false → exec .readScratchpad s = .next (onBus [.rst false] s)) ∧
    (s.bus.presenceBit = true →
      let cmd := .rst true :: (matchEvents (tableEntry s s.index.val) ++
        writeEvents [false, true, true, true, true, true, false, true])
      let bits := (s.bus.replay cmd).reads 16
      exec .readScratchpad s = .next { onBus (cmd ++ bits.map Event.r) s with
        samples := s.samples.set s.index.val (sampleOfBits bits) s.index.isLt })

/-- CONVERT_T: the frame of 30_encoding.md R95: with presence the Match ROM frame and the byte 0x44, with no read
after it; without, the one reset. That a bus command runs as an instruction is log 5, and that the released pin's level,
in `onBus`, is 0 is log 18. -/
def Obligations.ConvertTFrame : Prop :=
  ∀ s : State,
    exec .convertT s = .next (onBus (.rst s.bus.presenceBit ::
      if s.bus.presenceBit then
        matchEvents (tableEntry s s.index.val) ++
          writeEvents [false, false, true, false, false, false, true, false]
      else []) s)

/-- SAMPLE_ALL for every bus: it returns with no value; the table, the search state and the slots from count on are
unchanged, and with an empty table there is no transaction, no outcome and no slot written (43_sampler.md R180, R187,
R189). -/
def Obligations.SampleAllFrame : Prop :=
  ∀ s : State, ∃ t, exec .sampleAll s = .next t ∧ t.seq = .idle ∧ t.result = .noValue ∧
    t.count = s.count ∧ t.table = s.table ∧ t.search = s.search ∧ t.free = s.free ∧
    (∀ i, s.count.val ≤ i → t.samples[i]? = s.samples[i]?) ∧
    (s.count = 0 → t.trace = s.trace ++ [.op .sampleAll] ∧ t.bus = s.bus ∧ t.samples = s.samples)

/-- What SAMPLE_ALL performs, device by device in table order, and what an abort leaves. The devices before j had their
whole cycles, each with its own identifier, and their slots hold the values read; the slots after j are unchanged.
Either j is count, with 178 transactions a device and no outcome; or the cycle of j ended with one BUS_ABSENT: at its first
reset, after 178 j + 1 transactions and with slot j unchanged, or at its second, after 178 j + 98 and with slot j the
value just read (43_sampler.md R181 to R184, R186, R190; conflict C6). -/
def Obligations.SampleAllCountsAndAborts : Prop :=
  ∀ s : State, ∃ t es j, exec .sampleAll s = .next t ∧ t.trace = s.trace ++ .op .sampleAll :: es ∧
    (∀ i, i < j → t.samples[i]? = some (sampleAtCycle s i)) ∧ (∀ i, j < i → t.samples[i]? = s.samples[i]?) ∧
    let before := cyclesEvents (s.table.toList.take j) s.bus
    ((j = s.count.val ∧ t.samples[j]? = s.samples[j]? ∧ es = before ∧ outcomes es = [] ∧
        transactions es = 178 * j ∧ resets es = 2 * j ∧ writes es = 160 * j ∧ reads es = 16 * j) ∨
      (j < s.count.val ∧ t.samples[j]? = s.samples[j]? ∧
        es = before ++ [.rst false, .oc (.busAbsentSample j .read)] ∧
        outcomes es = [.busAbsentSample j .read] ∧ transactions es = 178 * j + 1) ∨
      (j < s.count.val ∧ t.samples[j]? = some (sampleAtCycle s j) ∧
        es = before ++ readFrameEvents (tableEntry s j) (busAtCycle s j) ++
          [.rst false, .oc (.busAbsentSample j .convert)] ∧
        outcomes es = [.busAbsentSample j .convert] ∧ transactions es = 178 * j + 98))

/-- SAMPLE_ALL of reference devices with different identifiers. Where no conversion is to land in it, the scratchpad of
each device that the table names goes unchanged into the slot of its entry, also where its conversion is pending, and
its next conversion is started; a device that the table does not name only drops out (43_sampler.md R184, R185;
60_exceptions.md R253 to R256). Where conversions do land in it, bit k of the sample of one device is the bit of the
scratchpad as it is at read k, after the 81 + k transactions before that read: the old value, or the converted one where
it has landed (R255; that it lands between transactions is log 15). -/
def Obligations.SampleOfPresentDevice : Prop :=
  (∀ (s : State) (ds : List Device), s.bus.population = .reference ds .noFault → s.bus.script = [] →
    s.bus.landings = [] → ds ≠ [] → ds.Pairwise (fun d e => d.rom ≠ e.rom) →
    ∃ t es, exec .sampleAll s = .next t ∧ t.trace = s.trace ++ es ∧ transactions es = 178 * s.count.val ∧
      outcomes es = [] ∧
      (∀ i < s.count.val, ∀ d ∈ ds, d.rom = tableEntry s i → t.samples[i]? = some d.sp) ∧
      (s.count ≠ 0 → t.bus.population = .reference (ds.map fun d =>
        { d with
          pending := d.pending || decide (d.rom ∈ s.table.toList.take s.count.val)
          st := .inactive }) .noFault)) ∧
  ∀ (s : State) (d : Device), s.bus.population = .reference [d] .noFault → s.bus.script = [] →
    s.count = 1 → tableEntry s 0 = d.rom →
    ∃ t v, exec .sampleAll s = .next t ∧ t.samples = s.samples.set 0 v ∧
      ∀ k < 16, v.getLsbD k =
        if d.pending = true ∧ ∃ l ∈ s.bus.landings, l.device = 0 ∧ l.transactions ≤ 81 + k then
          (d.conv.signExtend 16).getLsbD k
        else d.sp.getLsbD k

/-- Vanished devices: others answer the resets, and each slot whose identifier none has takes 0xFFFF, with no outcome
(43_sampler.md R188; 70_reset_and_hazards.md R282; 60_exceptions.md R257). -/
def Obligations.VanishedDeviceReadsAllOnes : Prop :=
  ∀ (s : State) (ds : List Device), s.bus.population = .reference ds .noFault → s.bus.script = [] → ds ≠ [] →
    ∃ t es, exec .sampleAll s = .next t ∧ t.trace = s.trace ++ es ∧ outcomes es = [] ∧
      ∀ i < s.count.val, (∀ d ∈ ds, d.rom ≠ tableEntry s i) → t.samples[i]? = some 0xFFFF

/-- A Match ROM selects exactly the device whose identifier was sent; any other drops out (60_exceptions.md
R253). -/
def Obligations.MatchSelectsOnlyItsDevice : Prop :=
  ∀ (d : Device) (id : Identifier), d.st = .matching 1 →
    (idBits id).foldl Device.slot d = { d with st := if id = d.rom then .func 0 0 else .inactive }

/-! ### TemperatureFormatter (44_formatter.md) -/

/-- FORMAT of the sentinel gives "------" in both units, with SENSOR_ABSENT_SENTINEL (44_formatter.md R201;
60_exceptions.md R235). -/
def Obligations.FormatOfSentinel : Prop :=
  ∀ (u : TempUnit) (s : State), exec (.format u s.params.sentinel) s = .next { s with
    trace := s.trace ++ [.op .format, .oc (.sensorAbsentSentinel s.params.sentinel)]
    result := .text #v[0x2D, 0x2D, 0x2D, 0x2D, 0x2D, 0x2D]
    seq := .idle }

/-- FORMAT in Celsius: the sign of bit 15; whole degrees and sixteenths of the magnitude, mod 2^16, in bits 10..4 and
3..0 (44_formatter.md R200, R202, R204 to R206). -/
def Obligations.FormatCelsius : Prop :=
  ∀ (raw : Half) (s : State), raw ≠ s.params.sentinel →
    let neg := raw.getLsbD 15
    let v := if neg then (2 ^ 16 - raw.toNat) % 2 ^ 16 else raw.toNat
    ∃ txt : Text, txt.toList = textOf (Pad.char s.params.pad) neg (v / 16 % 128) (v % 16) ∧
      exec (.format .celsius raw) s = .next { s with
        trace := s.trace ++ [.op .format], result := .text txt, seq := .idle }

/-- FORMAT in Fahrenheit, where the whole degrees fit three digits: with f of 44_formatter.md R203, the sign is that
of f, the whole part |f| div 16 and the sixteenths |f| mod 16 (R203 to R207). -/
def Obligations.FormatFahrenheit : Prop :=
  ∀ (raw : Half) (s : State), raw ≠ s.params.sentinel → -9174 < raw.toInt → raw.toInt < 8605 →
    let f := ((raw.toInt + 880) * 180).tdiv 100 - 1072
    ∃ txt : Text, txt.toList = textOf (Pad.char s.params.pad) (decide (f < 0)) (f.natAbs / 16) (f.natAbs % 16) ∧
      exec (.format .fahrenheit raw) s = .next { s with
        trace := s.trace ++ [.op .format], result := .text txt, seq := .idle }

/-- Field overflow: a whole part of 1000 or more comes only in Fahrenheit, and there exactly from 8605 up and from
-9174 down; FORMAT then gives some six ASCII characters, of which nothing else is said (44_formatter.md R207; the
free value of log 8). -/
def Obligations.FormatOverflow : Prop :=
  ∀ raw : Half, (celsius raw).whole < 1000 ∧
    (1000 ≤ (fahrenheit raw).whole ↔ 8605 ≤ raw.toInt ∨ raw.toInt ≤ -9174) ∧
    ∀ s : State, raw ≠ s.params.sentinel → 1000 ≤ (fahrenheit raw).whole →
      ∃ txt : Text, (∀ c ∈ txt.toList, c.toNat < 128) ∧
        exec (.format .fahrenheit raw) s = .next { s with
          trace := s.trace ++ [.op .format], result := .text txt, seq := .idle, free := s.free + 1 }

/-- No value but the sentinel gives "------": every text that fits has a point as its fifth character, a sign as its
first and a digit as its last (44_formatter.md R201, R205; 30_encoding.md R102). -/
def Obligations.RenderedTextShape : Prop :=
  ∀ (pad : Pad) (u : TempUnit) (raw : Half) (t : Text), render pad (convert u raw) = some t →
    t[4] = 0x2E ∧ (t[0] = 0x20 ∨ t[0] = 0x2D) ∧ (0x30 ≤ t[5].toNat ∧ t[5].toNat ≤ 0x39) ∧
      (0x30 ≤ t[3].toNat ∧ t[3].toNat ≤ 0x39) ∧ t ≠ placeholder

/-- Negative zero: never in Fahrenheit; in Celsius exactly where bit 15 is set and bits 10..0 of the magnitude are 0
(44_formatter.md R210). -/
def Obligations.NegativeZero : Prop :=
  ∀ raw : Half,
    ¬((fahrenheit raw).negative = true ∧ (fahrenheit raw).whole = 0 ∧ (fahrenheit raw).nib = 0) ∧
    ((celsius raw).negative = true ∧ (celsius raw).whole = 0 ∧ (celsius raw).nib = 0 ↔
      raw.getLsbD 15 = true ∧ raw.extractLsb' 0 11 = 0)

/-- Accuracy over the readings a sensor produces, except -128 °C: the Celsius text is within 0.05 of s/16, and exactly
0.05 off only at the ties; the Fahrenheit text is between 0.1 below and 0.0875 above 9s/80 + 32 (44_formatter.md
R211). -/
def Obligations.TextAccuracy : Prop :=
  ∀ raw : Half, isReading raw = true → raw ≠ 0xF800 →
    (16 * readingTenths (celsius raw) - 10 * raw.toInt).natAbs ≤ 8 ∧
    ((16 * readingTenths (celsius raw) - 10 * raw.toInt).natAbs = 8 ↔
      (celsius raw).nib = 4 ∨ (celsius raw).nib = 12) ∧
    -8 ≤ 8 * readingTenths (fahrenheit raw) - (9 * raw.toInt + 2560) ∧
    8 * readingTenths (fahrenheit raw) - (9 * raw.toInt + 2560) ≤ 7

/-! ### Timing (40_bitlink.md R123 to R134) -/

/-- The bus time of events is that of their resets, write slots and read slots; under the contract a byte takes 520
to 560 µs, a sample 960 to 1200 µs, a triplet 185 to 220 µs, a complete pass 13.16 to 15.44 ms and a device's cycle
12.96 to 14.00 ms (40_bitlink.md R134; 70_reset_and_hazards.md R284). That a write slot takes T_SLOT_W for both bits,
though its program ends before, is log 26; the exact reset and the closed intervals are log 12. All these are the times
asked for. As they come out, slot by slot, on a platform whose delays return late but within the maximum of each phase
(40_bitlink.md R124), they are at least as long, and without a reset at most 70 µs a write slot and 75 µs a read slot
(log 28). -/
def Obligations.BusTimes : Prop :=
  ∀ (t : Timing) (es : List Event),
    busTime t es = resets es * t.rstTotal + writes es * t.slotW + reads es * t.slotR ∧
    (t.Ok →
      (resets es = 0 → writes es = 8 → reads es = 0 → 520000 ≤ busTime t es ∧ busTime t es ≤ 560000) ∧
      (resets es = 0 → writes es = 0 → reads es = 16 → 960000 ≤ busTime t es ∧ busTime t es ≤ 1200000) ∧
      (resets es = 0 → writes es = 1 → reads es = 2 → 185000 ≤ busTime t es ∧ busTime t es ≤ 220000) ∧
      (resets es = 1 → writes es = 72 → reads es = 128 →
        13160000 ≤ busTime t es ∧ busTime t es ≤ 15440000) ∧
      (resets es = 2 → writes es = 160 → reads es = 16 →
        12960000 ≤ busTime t es ∧ busTime t es ≤ 14000000) ∧
      ∀ xs, List.Forall₂ (Took.Ok t) es xs →
        busTime t es ≤ tookTime xs ∧ (resets es = 0 → tookTime xs ≤ writes es * 70000 + reads es * 75000))

/-- The wire programs fit the contract: the reset's waits add up to T_RST_TOTAL with at least 480 µs low, a read
slot's to T_SLOT_R, and a write slot's at most to T_SLOT_W (40_bitlink.md R110, R112, R114, R125, R127, R130,
R133). That the rest of a write slot is waited after its program, with no action, is the model's (log 26). A transaction
may take exactly what is asked for; and however late its delays return, it takes no less, and the reset's low phase no
less than 480 µs (R124; log 28). -/
def Obligations.WireProgramsFitTheirSlots : Prop :=
  ∀ t : Timing, t.Ok →
    wireTime t wireReset = t.rstTotal ∧ 480000 ≤ wireTime t (wireReset.take 2) ∧ wireTime t wireRead = t.slotR ∧
      (∀ b, wireTime t (wireWrite b) ≤ t.slotW) ∧
      ∀ e : Event,
        Took.Ok t e { waits := (delays e.program).map (Delay.ns t), total := Event.ns t e } ∧
        ∀ x, Took.Ok t e x → wireTime t e.program ≤ x.total ∧ Event.ns t e ≤ x.total ∧
          ∀ p, e = .rst p → ∃ low, x.waits.head? = some low ∧ 480000 ≤ low ∧ low ≤ t.rstlMax
end

