-- ==== Sys2Proof/Laws/State.lean ====
section
/-! SUPPORT. What each named update of the state does to each field: one lemma per field per update, so that no
proof unfolds a record update. -/

namespace Sys2Proof.Machine

theorem wireReset_releases (p : Pin) : p.run wireReset = { dir := .released, level := false } := rfl

theorem wireRead_releases (p : Pin) : p.run wireRead = { dir := .released, level := false } := rfl

theorem wireWrite_releases (p : Pin) (b : Bool) : p.run (wireWrite b) = { dir := .released, level := false } := rfl

/-! ### record -/

@[simp] theorem record_search (e : Event) (s : State) : (record e s).search = s.search := rfl
@[simp] theorem record_count (e : Event) (s : State) : (record e s).count = s.count := rfl
@[simp] theorem record_table (e : Event) (s : State) : (record e s).table = s.table := rfl
@[simp] theorem record_samples (e : Event) (s : State) : (record e s).samples = s.samples := rfl
@[simp] theorem record_pin (e : Event) (s : State) : (record e s).pin = s.pin := rfl
@[simp] theorem record_seq (e : Event) (s : State) : (record e s).seq = s.seq := rfl
@[simp] theorem record_result (e : Event) (s : State) : (record e s).result = s.result := rfl
@[simp] theorem record_index (e : Event) (s : State) : (record e s).index = s.index := rfl
@[simp] theorem record_trace (e : Event) (s : State) : (record e s).trace = s.trace ++ [e] := rfl
@[simp] theorem record_refusals (e : Event) (s : State) : (record e s).refusals = s.refusals := rfl
@[simp] theorem record_bus (e : Event) (s : State) : (record e s).bus = s.bus := rfl
@[simp] theorem record_agenda (e : Event) (s : State) : (record e s).agenda = s.agenda := rfl
@[simp] theorem record_pendingReset (e : Event) (s : State) : (record e s).pendingReset = s.pendingReset := rfl
@[simp] theorem record_params (e : Event) (s : State) : (record e s).params = s.params := rfl
@[simp] theorem record_free (e : Event) (s : State) : (record e s).free = s.free := rfl

/-! ### raise -/

@[simp] theorem raise_search (o : OutcomeEvent) (s : State) : (raise o s).search = s.search := rfl
@[simp] theorem raise_count (o : OutcomeEvent) (s : State) : (raise o s).count = s.count := rfl
@[simp] theorem raise_table (o : OutcomeEvent) (s : State) : (raise o s).table = s.table := rfl
@[simp] theorem raise_samples (o : OutcomeEvent) (s : State) : (raise o s).samples = s.samples := rfl
@[simp] theorem raise_pin (o : OutcomeEvent) (s : State) : (raise o s).pin = s.pin := rfl
@[simp] theorem raise_seq (o : OutcomeEvent) (s : State) : (raise o s).seq = s.seq := rfl
@[simp] theorem raise_result (o : OutcomeEvent) (s : State) : (raise o s).result = s.result := rfl
@[simp] theorem raise_index (o : OutcomeEvent) (s : State) : (raise o s).index = s.index := rfl
@[simp] theorem raise_trace (o : OutcomeEvent) (s : State) : (raise o s).trace = s.trace ++ [.oc o] := rfl
@[simp] theorem raise_refusals (o : OutcomeEvent) (s : State) : (raise o s).refusals = s.refusals := rfl
@[simp] theorem raise_bus (o : OutcomeEvent) (s : State) : (raise o s).bus = s.bus := rfl
@[simp] theorem raise_agenda (o : OutcomeEvent) (s : State) : (raise o s).agenda = s.agenda := rfl
@[simp] theorem raise_pendingReset (o : OutcomeEvent) (s : State) : (raise o s).pendingReset = s.pendingReset := rfl
@[simp] theorem raise_params (o : OutcomeEvent) (s : State) : (raise o s).params = s.params := rfl
@[simp] theorem raise_free (o : OutcomeEvent) (s : State) : (raise o s).free = s.free := rfl

/-! ### busReset -/

@[simp] theorem busReset_search (s : State) : ((busReset s).2).search = s.search := rfl
@[simp] theorem busReset_count (s : State) : ((busReset s).2).count = s.count := rfl
@[simp] theorem busReset_table (s : State) : ((busReset s).2).table = s.table := rfl
@[simp] theorem busReset_samples (s : State) : ((busReset s).2).samples = s.samples := rfl
@[simp] theorem busReset_pin (s : State) : ((busReset s).2).pin = { dir := .released, level := false } := rfl
@[simp] theorem busReset_seq (s : State) : ((busReset s).2).seq = s.seq := rfl
@[simp] theorem busReset_result (s : State) : ((busReset s).2).result = s.result := rfl
@[simp] theorem busReset_index (s : State) : ((busReset s).2).index = s.index := rfl
@[simp] theorem busReset_trace (s : State) : ((busReset s).2).trace = s.trace ++ [.rst s.bus.presenceBit] := rfl
@[simp] theorem busReset_refusals (s : State) : ((busReset s).2).refusals = s.refusals := rfl
@[simp] theorem busReset_bus (s : State) : ((busReset s).2).bus = s.bus.afterReset := rfl
@[simp] theorem busReset_agenda (s : State) : ((busReset s).2).agenda = s.agenda := rfl
@[simp] theorem busReset_pendingReset (s : State) : ((busReset s).2).pendingReset = s.pendingReset := rfl
@[simp] theorem busReset_params (s : State) : ((busReset s).2).params = s.params := rfl
@[simp] theorem busReset_free (s : State) : ((busReset s).2).free = s.free := rfl

/-! ### busWrite -/

@[simp] theorem busWrite_search (b : Bool) (s : State) : (busWrite b s).search = s.search := rfl
@[simp] theorem busWrite_count (b : Bool) (s : State) : (busWrite b s).count = s.count := rfl
@[simp] theorem busWrite_table (b : Bool) (s : State) : (busWrite b s).table = s.table := rfl
@[simp] theorem busWrite_samples (b : Bool) (s : State) : (busWrite b s).samples = s.samples := rfl
@[simp] theorem busWrite_pin (b : Bool) (s : State) : (busWrite b s).pin = { dir := .released, level := false } := rfl
@[simp] theorem busWrite_seq (b : Bool) (s : State) : (busWrite b s).seq = s.seq := rfl
@[simp] theorem busWrite_result (b : Bool) (s : State) : (busWrite b s).result = s.result := rfl
@[simp] theorem busWrite_index (b : Bool) (s : State) : (busWrite b s).index = s.index := rfl
@[simp] theorem busWrite_trace (b : Bool) (s : State) : (busWrite b s).trace = s.trace ++ [.w b] := rfl
@[simp] theorem busWrite_refusals (b : Bool) (s : State) : (busWrite b s).refusals = s.refusals := rfl
@[simp] theorem busWrite_bus (b : Bool) (s : State) : (busWrite b s).bus = s.bus.afterWrite b := rfl
@[simp] theorem busWrite_agenda (b : Bool) (s : State) : (busWrite b s).agenda = s.agenda := rfl
@[simp] theorem busWrite_pendingReset (b : Bool) (s : State) : (busWrite b s).pendingReset = s.pendingReset := rfl
@[simp] theorem busWrite_params (b : Bool) (s : State) : (busWrite b s).params = s.params := rfl
@[simp] theorem busWrite_free (b : Bool) (s : State) : (busWrite b s).free = s.free := rfl

/-! ### busRead -/

@[simp] theorem busRead_search (s : State) : ((busRead s).2).search = s.search := rfl
@[simp] theorem busRead_count (s : State) : ((busRead s).2).count = s.count := rfl
@[simp] theorem busRead_table (s : State) : ((busRead s).2).table = s.table := rfl
@[simp] theorem busRead_samples (s : State) : ((busRead s).2).samples = s.samples := rfl
@[simp] theorem busRead_pin (s : State) : ((busRead s).2).pin = { dir := .released, level := false } := rfl
@[simp] theorem busRead_seq (s : State) : ((busRead s).2).seq = s.seq := rfl
@[simp] theorem busRead_result (s : State) : ((busRead s).2).result = s.result := rfl
@[simp] theorem busRead_index (s : State) : ((busRead s).2).index = s.index := rfl
@[simp] theorem busRead_trace (s : State) : ((busRead s).2).trace = s.trace ++ [.r s.bus.readBit] := rfl
@[simp] theorem busRead_refusals (s : State) : ((busRead s).2).refusals = s.refusals := rfl
@[simp] theorem busRead_bus (s : State) : ((busRead s).2).bus = s.bus.afterRead := rfl
@[simp] theorem busRead_agenda (s : State) : ((busRead s).2).agenda = s.agenda := rfl
@[simp] theorem busRead_pendingReset (s : State) : ((busRead s).2).pendingReset = s.pendingReset := rfl
@[simp] theorem busRead_params (s : State) : ((busRead s).2).params = s.params := rfl
@[simp] theorem busRead_free (s : State) : ((busRead s).2).free = s.free := rfl

/-! ### startOp -/

@[simp] theorem startOp_search (o : HostOp) (i : Instr) (s : State) : (startOp o i s).search = s.search := rfl
@[simp] theorem startOp_count (o : HostOp) (i : Instr) (s : State) : (startOp o i s).count = s.count := rfl
@[simp] theorem startOp_table (o : HostOp) (i : Instr) (s : State) : (startOp o i s).table = s.table := rfl
@[simp] theorem startOp_samples (o : HostOp) (i : Instr) (s : State) : (startOp o i s).samples = s.samples := rfl
@[simp] theorem startOp_pin (o : HostOp) (i : Instr) (s : State) : (startOp o i s).pin = s.pin := rfl
@[simp] theorem startOp_seq (o : HostOp) (i : Instr) (s : State) : (startOp o i s).seq = .busy i .start := rfl
@[simp] theorem startOp_result (o : HostOp) (i : Instr) (s : State) : (startOp o i s).result = s.result := rfl
@[simp] theorem startOp_index (o : HostOp) (i : Instr) (s : State) : (startOp o i s).index = s.index := rfl
@[simp] theorem startOp_trace (o : HostOp) (i : Instr) (s : State) : (startOp o i s).trace = s.trace ++ [.op o] := rfl
@[simp] theorem startOp_refusals (o : HostOp) (i : Instr) (s : State) : (startOp o i s).refusals = s.refusals := rfl
@[simp] theorem startOp_bus (o : HostOp) (i : Instr) (s : State) : (startOp o i s).bus = s.bus := rfl
@[simp] theorem startOp_agenda (o : HostOp) (i : Instr) (s : State) : (startOp o i s).agenda = s.agenda := rfl
@[simp] theorem startOp_pendingReset (o : HostOp) (i : Instr) (s : State) :
    (startOp o i s).pendingReset = s.pendingReset := rfl
@[simp] theorem startOp_params (o : HostOp) (i : Instr) (s : State) : (startOp o i s).params = s.params := rfl
@[simp] theorem startOp_free (o : HostOp) (i : Instr) (s : State) : (startOp o i s).free = s.free := rfl

/-! ### returnOp -/

@[simp] theorem returnOp_search (v : Result) (s : State) : (returnOp v s).search = s.search := rfl
@[simp] theorem returnOp_count (v : Result) (s : State) : (returnOp v s).count = s.count := rfl
@[simp] theorem returnOp_table (v : Result) (s : State) : (returnOp v s).table = s.table := rfl
@[simp] theorem returnOp_samples (v : Result) (s : State) : (returnOp v s).samples = s.samples := rfl
@[simp] theorem returnOp_pin (v : Result) (s : State) : (returnOp v s).pin = s.pin := rfl
@[simp] theorem returnOp_seq (v : Result) (s : State) : (returnOp v s).seq = .idle := rfl
@[simp] theorem returnOp_result (v : Result) (s : State) : (returnOp v s).result = v := rfl
@[simp] theorem returnOp_index (v : Result) (s : State) : (returnOp v s).index = s.index := rfl
@[simp] theorem returnOp_trace (v : Result) (s : State) : (returnOp v s).trace = s.trace := rfl
@[simp] theorem returnOp_refusals (v : Result) (s : State) : (returnOp v s).refusals = s.refusals := rfl
@[simp] theorem returnOp_bus (v : Result) (s : State) : (returnOp v s).bus = s.bus := rfl
@[simp] theorem returnOp_agenda (v : Result) (s : State) : (returnOp v s).agenda = s.agenda := rfl
@[simp] theorem returnOp_pendingReset (v : Result) (s : State) : (returnOp v s).pendingReset = s.pendingReset := rfl
@[simp] theorem returnOp_params (v : Result) (s : State) : (returnOp v s).params = s.params := rfl
@[simp] theorem returnOp_free (v : Result) (s : State) : (returnOp v s).free = s.free := rfl

/-! ### refuseWord -/

@[simp] theorem refuseWord_search (r : RefusalReason) (s : State) : (refuseWord r s).search = s.search := rfl
@[simp] theorem refuseWord_count (r : RefusalReason) (s : State) : (refuseWord r s).count = s.count := rfl
@[simp] theorem refuseWord_table (r : RefusalReason) (s : State) : (refuseWord r s).table = s.table := rfl
@[simp] theorem refuseWord_samples (r : RefusalReason) (s : State) : (refuseWord r s).samples = s.samples := rfl
@[simp] theorem refuseWord_pin (r : RefusalReason) (s : State) : (refuseWord r s).pin = s.pin := rfl
@[simp] theorem refuseWord_seq (r : RefusalReason) (s : State) : (refuseWord r s).seq = s.seq := rfl
@[simp] theorem refuseWord_result (r : RefusalReason) (s : State) : (refuseWord r s).result = s.result := rfl
@[simp] theorem refuseWord_index (r : RefusalReason) (s : State) : (refuseWord r s).index = s.index := rfl
@[simp] theorem refuseWord_trace (r : RefusalReason) (s : State) : (refuseWord r s).trace = s.trace := rfl
@[simp] theorem refuseWord_refusals (r : RefusalReason) (s : State) :
    (refuseWord r s).refusals = s.refusals ++ [r] := rfl
@[simp] theorem refuseWord_bus (r : RefusalReason) (s : State) : (refuseWord r s).bus = s.bus := rfl
@[simp] theorem refuseWord_agenda (r : RefusalReason) (s : State) : (refuseWord r s).agenda = s.agenda := rfl
@[simp] theorem refuseWord_pendingReset (r : RefusalReason) (s : State) :
    (refuseWord r s).pendingReset = s.pendingReset := rfl
@[simp] theorem refuseWord_params (r : RefusalReason) (s : State) : (refuseWord r s).params = s.params := rfl
@[simp] theorem refuseWord_free (r : RefusalReason) (s : State) : (refuseWord r s).free = s.free := rfl

/-! ### blockReset -/

@[simp] theorem blockReset_search (s : State) : (blockReset s).search = State.reset.search := rfl
@[simp] theorem blockReset_count (s : State) : (blockReset s).count = State.reset.count := rfl
@[simp] theorem blockReset_table (s : State) : (blockReset s).table = State.reset.table := rfl
@[simp] theorem blockReset_samples (s : State) : (blockReset s).samples = Vector.replicate 5 s.params.sentinel := rfl
@[simp] theorem blockReset_pin (s : State) : (blockReset s).pin = State.reset.pin := rfl
@[simp] theorem blockReset_seq (s : State) : (blockReset s).seq = .idle := rfl
@[simp] theorem blockReset_result (s : State) : (blockReset s).result = .noValue := rfl
@[simp] theorem blockReset_index (s : State) : (blockReset s).index = State.reset.index := rfl
@[simp] theorem blockReset_trace (s : State) : (blockReset s).trace = s.trace := rfl
@[simp] theorem blockReset_refusals (s : State) : (blockReset s).refusals = s.refusals := rfl
@[simp] theorem blockReset_bus (s : State) : (blockReset s).bus = s.bus := rfl
@[simp] theorem blockReset_agenda (s : State) : (blockReset s).agenda = s.agenda := rfl
@[simp] theorem blockReset_pendingReset (s : State) : (blockReset s).pendingReset = none := rfl
@[simp] theorem blockReset_params (s : State) : (blockReset s).params = s.params := rfl
@[simp] theorem blockReset_free (s : State) : (blockReset s).free = s.free := rfl

/-! ### setSample -/

@[simp] theorem setSample_search (i : Nat) (v : Half) (s : State) : (setSample i v s).search = s.search := rfl
@[simp] theorem setSample_count (i : Nat) (v : Half) (s : State) : (setSample i v s).count = s.count := rfl
@[simp] theorem setSample_table (i : Nat) (v : Half) (s : State) : (setSample i v s).table = s.table := rfl
@[simp] theorem setSample_samples (i : Nat) (v : Half) (s : State) :
    (setSample i v s).samples = s.samples.setIfInBounds i v := rfl
@[simp] theorem setSample_pin (i : Nat) (v : Half) (s : State) : (setSample i v s).pin = s.pin := rfl
@[simp] theorem setSample_seq (i : Nat) (v : Half) (s : State) : (setSample i v s).seq = s.seq := rfl
@[simp] theorem setSample_result (i : Nat) (v : Half) (s : State) : (setSample i v s).result = s.result := rfl
@[simp] theorem setSample_index (i : Nat) (v : Half) (s : State) : (setSample i v s).index = s.index := rfl
@[simp] theorem setSample_trace (i : Nat) (v : Half) (s : State) : (setSample i v s).trace = s.trace := rfl
@[simp] theorem setSample_refusals (i : Nat) (v : Half) (s : State) : (setSample i v s).refusals = s.refusals := rfl
@[simp] theorem setSample_bus (i : Nat) (v : Half) (s : State) : (setSample i v s).bus = s.bus := rfl
@[simp] theorem setSample_agenda (i : Nat) (v : Half) (s : State) : (setSample i v s).agenda = s.agenda := rfl
@[simp] theorem setSample_pendingReset (i : Nat) (v : Half) (s : State) :
    (setSample i v s).pendingReset = s.pendingReset := rfl
@[simp] theorem setSample_params (i : Nat) (v : Half) (s : State) : (setSample i v s).params = s.params := rfl
@[simp] theorem setSample_free (i : Nat) (v : Half) (s : State) : (setSample i v s).free = s.free := rfl

/-! ### appendId -/

@[simp] theorem appendId_search (id : Identifier) (s : State) : (appendId id s).search = s.search := rfl
@[simp] theorem appendId_count (id : Identifier) (s : State) : (appendId id s).count = s.count + 1 := rfl
@[simp] theorem appendId_table (id : Identifier) (s : State) :
    (appendId id s).table = s.table.setIfInBounds s.count.val id := rfl
@[simp] theorem appendId_samples (id : Identifier) (s : State) : (appendId id s).samples = s.samples := rfl
@[simp] theorem appendId_pin (id : Identifier) (s : State) : (appendId id s).pin = s.pin := rfl
@[simp] theorem appendId_seq (id : Identifier) (s : State) : (appendId id s).seq = s.seq := rfl
@[simp] theorem appendId_result (id : Identifier) (s : State) : (appendId id s).result = s.result := rfl
@[simp] theorem appendId_index (id : Identifier) (s : State) : (appendId id s).index = s.index := rfl
@[simp] theorem appendId_trace (id : Identifier) (s : State) : (appendId id s).trace = s.trace := rfl
@[simp] theorem appendId_refusals (id : Identifier) (s : State) : (appendId id s).refusals = s.refusals := rfl
@[simp] theorem appendId_bus (id : Identifier) (s : State) : (appendId id s).bus = s.bus := rfl
@[simp] theorem appendId_agenda (id : Identifier) (s : State) : (appendId id s).agenda = s.agenda := rfl
@[simp] theorem appendId_pendingReset (id : Identifier) (s : State) :
    (appendId id s).pendingReset = s.pendingReset := rfl
@[simp] theorem appendId_params (id : Identifier) (s : State) : (appendId id s).params = s.params := rfl
@[simp] theorem appendId_free (id : Identifier) (s : State) : (appendId id s).free = s.free := rfl

/-! ### takeDirection -/

@[simp] theorem takeDirection_search (d : Bool) (m : Fin 65) (s : State) :
    (takeDirection d m s).search = { s.search with marker := m, idBuf := setIdBit s.search.idBuf s.search.p.val d } := rfl
@[simp] theorem takeDirection_count (d : Bool) (m : Fin 65) (s : State) : (takeDirection d m s).count = s.count := rfl
@[simp] theorem takeDirection_table (d : Bool) (m : Fin 65) (s : State) : (takeDirection d m s).table = s.table := rfl
@[simp] theorem takeDirection_samples (d : Bool) (m : Fin 65) (s : State) :
    (takeDirection d m s).samples = s.samples := rfl
@[simp] theorem takeDirection_pin (d : Bool) (m : Fin 65) (s : State) :
    (takeDirection d m s).pin = { dir := .released, level := false } := rfl
@[simp] theorem takeDirection_seq (d : Bool) (m : Fin 65) (s : State) : (takeDirection d m s).seq = s.seq := rfl
@[simp] theorem takeDirection_result (d : Bool) (m : Fin 65) (s : State) :
    (takeDirection d m s).result = s.result := rfl
@[simp] theorem takeDirection_index (d : Bool) (m : Fin 65) (s : State) : (takeDirection d m s).index = s.index := rfl
@[simp] theorem takeDirection_trace (d : Bool) (m : Fin 65) (s : State) :
    (takeDirection d m s).trace = s.trace ++ [.w d] := rfl
@[simp] theorem takeDirection_refusals (d : Bool) (m : Fin 65) (s : State) :
    (takeDirection d m s).refusals = s.refusals := rfl
@[simp] theorem takeDirection_bus (d : Bool) (m : Fin 65) (s : State) :
    (takeDirection d m s).bus = s.bus.afterWrite d := rfl
@[simp] theorem takeDirection_agenda (d : Bool) (m : Fin 65) (s : State) :
    (takeDirection d m s).agenda = s.agenda := rfl
@[simp] theorem takeDirection_pendingReset (d : Bool) (m : Fin 65) (s : State) :
    (takeDirection d m s).pendingReset = s.pendingReset := rfl
@[simp] theorem takeDirection_params (d : Bool) (m : Fin 65) (s : State) :
    (takeDirection d m s).params = s.params := rfl
@[simp] theorem takeDirection_free (d : Bool) (m : Fin 65) (s : State) : (takeDirection d m s).free = s.free := rfl

/-! ### atPosition -/

@[simp] theorem atPosition_search (p : Fin 65) (s : State) : (atPosition p s).search = { s.search with p := p } := rfl
@[simp] theorem atPosition_count (p : Fin 65) (s : State) : (atPosition p s).count = s.count := rfl
@[simp] theorem atPosition_table (p : Fin 65) (s : State) : (atPosition p s).table = s.table := rfl
@[simp] theorem atPosition_samples (p : Fin 65) (s : State) : (atPosition p s).samples = s.samples := rfl
@[simp] theorem atPosition_pin (p : Fin 65) (s : State) : (atPosition p s).pin = s.pin := rfl
@[simp] theorem atPosition_seq (p : Fin 65) (s : State) : (atPosition p s).seq = s.seq := rfl
@[simp] theorem atPosition_result (p : Fin 65) (s : State) : (atPosition p s).result = s.result := rfl
@[simp] theorem atPosition_index (p : Fin 65) (s : State) : (atPosition p s).index = s.index := rfl
@[simp] theorem atPosition_trace (p : Fin 65) (s : State) : (atPosition p s).trace = s.trace := rfl
@[simp] theorem atPosition_refusals (p : Fin 65) (s : State) : (atPosition p s).refusals = s.refusals := rfl
@[simp] theorem atPosition_bus (p : Fin 65) (s : State) : (atPosition p s).bus = s.bus := rfl
@[simp] theorem atPosition_agenda (p : Fin 65) (s : State) : (atPosition p s).agenda = s.agenda := rfl
@[simp] theorem atPosition_pendingReset (p : Fin 65) (s : State) :
    (atPosition p s).pendingReset = s.pendingReset := rfl
@[simp] theorem atPosition_params (p : Fin 65) (s : State) : (atPosition p s).params = s.params := rfl
@[simp] theorem atPosition_free (p : Fin 65) (s : State) : (atPosition p s).free = s.free := rfl

/-! ### clearMarker -/

@[simp] theorem clearMarker_search (s : State) : (clearMarker s).search = { s.search with marker := 0 } := rfl
@[simp] theorem clearMarker_count (s : State) : (clearMarker s).count = s.count := rfl
@[simp] theorem clearMarker_table (s : State) : (clearMarker s).table = s.table := rfl
@[simp] theorem clearMarker_samples (s : State) : (clearMarker s).samples = s.samples := rfl
@[simp] theorem clearMarker_pin (s : State) : (clearMarker s).pin = s.pin := rfl
@[simp] theorem clearMarker_seq (s : State) : (clearMarker s).seq = s.seq := rfl
@[simp] theorem clearMarker_result (s : State) : (clearMarker s).result = s.result := rfl
@[simp] theorem clearMarker_index (s : State) : (clearMarker s).index = s.index := rfl
@[simp] theorem clearMarker_trace (s : State) : (clearMarker s).trace = s.trace := rfl
@[simp] theorem clearMarker_refusals (s : State) : (clearMarker s).refusals = s.refusals := rfl
@[simp] theorem clearMarker_bus (s : State) : (clearMarker s).bus = s.bus := rfl
@[simp] theorem clearMarker_agenda (s : State) : (clearMarker s).agenda = s.agenda := rfl
@[simp] theorem clearMarker_pendingReset (s : State) : (clearMarker s).pendingReset = s.pendingReset := rfl
@[simp] theorem clearMarker_params (s : State) : (clearMarker s).params = s.params := rfl
@[simp] theorem clearMarker_free (s : State) : (clearMarker s).free = s.free := rfl

/-! ### passFailed -/

@[simp] theorem passFailed_search (s : State) : (passFailed s).search = { s.search with lastDiscrepancy := 0 } := rfl
@[simp] theorem passFailed_count (s : State) : (passFailed s).count = s.count := rfl
@[simp] theorem passFailed_table (s : State) : (passFailed s).table = s.table := rfl
@[simp] theorem passFailed_samples (s : State) : (passFailed s).samples = s.samples := rfl
@[simp] theorem passFailed_pin (s : State) : (passFailed s).pin = s.pin := rfl
@[simp] theorem passFailed_seq (s : State) : (passFailed s).seq = s.seq := rfl
@[simp] theorem passFailed_result (s : State) : (passFailed s).result = s.result := rfl
@[simp] theorem passFailed_index (s : State) : (passFailed s).index = s.index := rfl
@[simp] theorem passFailed_trace (s : State) : (passFailed s).trace = s.trace := rfl
@[simp] theorem passFailed_refusals (s : State) : (passFailed s).refusals = s.refusals := rfl
@[simp] theorem passFailed_bus (s : State) : (passFailed s).bus = s.bus := rfl
@[simp] theorem passFailed_agenda (s : State) : (passFailed s).agenda = s.agenda := rfl
@[simp] theorem passFailed_pendingReset (s : State) : (passFailed s).pendingReset = s.pendingReset := rfl
@[simp] theorem passFailed_params (s : State) : (passFailed s).params = s.params := rfl
@[simp] theorem passFailed_free (s : State) : (passFailed s).free = s.free := rfl

/-! ### passSucceeded -/

@[simp] theorem passSucceeded_search (s : State) :
    (passSucceeded s).search = { s.search with
      lastDiscrepancy := s.search.marker, done := doneAfter s.search.done s.search.marker } := rfl
@[simp] theorem passSucceeded_count (s : State) : (passSucceeded s).count = s.count + 1 := rfl
@[simp] theorem passSucceeded_table (s : State) :
    (passSucceeded s).table = s.table.setIfInBounds s.count.val s.search.idBuf := rfl
@[simp] theorem passSucceeded_samples (s : State) : (passSucceeded s).samples = s.samples := rfl
@[simp] theorem passSucceeded_pin (s : State) : (passSucceeded s).pin = s.pin := rfl
@[simp] theorem passSucceeded_seq (s : State) : (passSucceeded s).seq = s.seq := rfl
@[simp] theorem passSucceeded_result (s : State) : (passSucceeded s).result = s.result := rfl
@[simp] theorem passSucceeded_index (s : State) : (passSucceeded s).index = s.index := rfl
@[simp] theorem passSucceeded_trace (s : State) : (passSucceeded s).trace = s.trace := rfl
@[simp] theorem passSucceeded_refusals (s : State) : (passSucceeded s).refusals = s.refusals := rfl
@[simp] theorem passSucceeded_bus (s : State) : (passSucceeded s).bus = s.bus := rfl
@[simp] theorem passSucceeded_agenda (s : State) : (passSucceeded s).agenda = s.agenda := rfl
@[simp] theorem passSucceeded_pendingReset (s : State) : (passSucceeded s).pendingReset = s.pendingReset := rfl
@[simp] theorem passSucceeded_params (s : State) : (passSucceeded s).params = s.params := rfl
@[simp] theorem passSucceeded_free (s : State) : (passSucceeded s).free = s.free := rfl

/-! ### discoverInit -/

@[simp] theorem discoverInit_search (s : State) :
    (discoverInit s).search = { s.search with lastDiscrepancy := 0, done := false } := rfl
@[simp] theorem discoverInit_count (s : State) : (discoverInit s).count = 0 := rfl
@[simp] theorem discoverInit_table (s : State) : (discoverInit s).table = s.table := rfl
@[simp] theorem discoverInit_samples (s : State) : (discoverInit s).samples = s.samples := rfl
@[simp] theorem discoverInit_pin (s : State) : (discoverInit s).pin = s.pin := rfl
@[simp] theorem discoverInit_seq (s : State) : (discoverInit s).seq = s.seq := rfl
@[simp] theorem discoverInit_result (s : State) : (discoverInit s).result = s.result := rfl
@[simp] theorem discoverInit_index (s : State) : (discoverInit s).index = s.index := rfl
@[simp] theorem discoverInit_trace (s : State) : (discoverInit s).trace = s.trace := rfl
@[simp] theorem discoverInit_refusals (s : State) : (discoverInit s).refusals = s.refusals := rfl
@[simp] theorem discoverInit_bus (s : State) : (discoverInit s).bus = s.bus := rfl
@[simp] theorem discoverInit_agenda (s : State) : (discoverInit s).agenda = s.agenda := rfl
@[simp] theorem discoverInit_pendingReset (s : State) : (discoverInit s).pendingReset = s.pendingReset := rfl
@[simp] theorem discoverInit_params (s : State) : (discoverInit s).params = s.params := rfl
@[simp] theorem discoverInit_free (s : State) : (discoverInit s).free = s.free := rfl

/-! ### atIndex -/

@[simp] theorem atIndex_search (i : Nat) (s : State) : (atIndex i s).search = s.search := rfl
@[simp] theorem atIndex_count (i : Nat) (s : State) : (atIndex i s).count = s.count := rfl
@[simp] theorem atIndex_table (i : Nat) (s : State) : (atIndex i s).table = s.table := rfl
@[simp] theorem atIndex_samples (i : Nat) (s : State) : (atIndex i s).samples = s.samples := rfl
@[simp] theorem atIndex_pin (i : Nat) (s : State) : (atIndex i s).pin = s.pin := rfl
@[simp] theorem atIndex_seq (i : Nat) (s : State) : (atIndex i s).seq = s.seq := rfl
@[simp] theorem atIndex_result (i : Nat) (s : State) : (atIndex i s).result = s.result := rfl
@[simp] theorem atIndex_index (i : Nat) (s : State) : (atIndex i s).index = Fin.ofNat 5 i := rfl
@[simp] theorem atIndex_trace (i : Nat) (s : State) : (atIndex i s).trace = s.trace := rfl
@[simp] theorem atIndex_refusals (i : Nat) (s : State) : (atIndex i s).refusals = s.refusals := rfl
@[simp] theorem atIndex_bus (i : Nat) (s : State) : (atIndex i s).bus = s.bus := rfl
@[simp] theorem atIndex_agenda (i : Nat) (s : State) : (atIndex i s).agenda = s.agenda := rfl
@[simp] theorem atIndex_pendingReset (i : Nat) (s : State) : (atIndex i s).pendingReset = s.pendingReset := rfl
@[simp] theorem atIndex_params (i : Nat) (s : State) : (atIndex i s).params = s.params := rfl
@[simp] theorem atIndex_free (i : Nat) (s : State) : (atIndex i s).free = s.free := rfl

/-! ### dropMove -/

@[simp] theorem dropMove_search (s : State) : (dropMove s).search = s.search := rfl
@[simp] theorem dropMove_count (s : State) : (dropMove s).count = s.count := rfl
@[simp] theorem dropMove_table (s : State) : (dropMove s).table = s.table := rfl
@[simp] theorem dropMove_samples (s : State) : (dropMove s).samples = s.samples := rfl
@[simp] theorem dropMove_pin (s : State) : (dropMove s).pin = s.pin := rfl
@[simp] theorem dropMove_seq (s : State) : (dropMove s).seq = s.seq := rfl
@[simp] theorem dropMove_result (s : State) : (dropMove s).result = s.result := rfl
@[simp] theorem dropMove_index (s : State) : (dropMove s).index = s.index := rfl
@[simp] theorem dropMove_trace (s : State) : (dropMove s).trace = s.trace := rfl
@[simp] theorem dropMove_refusals (s : State) : (dropMove s).refusals = s.refusals := rfl
@[simp] theorem dropMove_bus (s : State) : (dropMove s).bus = s.bus := rfl
@[simp] theorem dropMove_agenda (s : State) : (dropMove s).agenda = s.agenda.tail := rfl
@[simp] theorem dropMove_pendingReset (s : State) : (dropMove s).pendingReset = s.pendingReset := rfl
@[simp] theorem dropMove_params (s : State) : (dropMove s).params = s.params := rfl
@[simp] theorem dropMove_free (s : State) : (dropMove s).free = s.free := rfl

/-! ### planReset -/

@[simp] theorem planReset_search (k : Nat) (s : State) : (planReset k s).search = s.search := rfl
@[simp] theorem planReset_count (k : Nat) (s : State) : (planReset k s).count = s.count := rfl
@[simp] theorem planReset_table (k : Nat) (s : State) : (planReset k s).table = s.table := rfl
@[simp] theorem planReset_samples (k : Nat) (s : State) : (planReset k s).samples = s.samples := rfl
@[simp] theorem planReset_pin (k : Nat) (s : State) : (planReset k s).pin = s.pin := rfl
@[simp] theorem planReset_seq (k : Nat) (s : State) : (planReset k s).seq = s.seq := rfl
@[simp] theorem planReset_result (k : Nat) (s : State) : (planReset k s).result = s.result := rfl
@[simp] theorem planReset_index (k : Nat) (s : State) : (planReset k s).index = s.index := rfl
@[simp] theorem planReset_trace (k : Nat) (s : State) : (planReset k s).trace = s.trace := rfl
@[simp] theorem planReset_refusals (k : Nat) (s : State) : (planReset k s).refusals = s.refusals := rfl
@[simp] theorem planReset_bus (k : Nat) (s : State) : (planReset k s).bus = s.bus := rfl
@[simp] theorem planReset_agenda (k : Nat) (s : State) : (planReset k s).agenda = s.agenda := rfl
@[simp] theorem planReset_pendingReset (k : Nat) (s : State) : (planReset k s).pendingReset = some k := rfl
@[simp] theorem planReset_params (k : Nat) (s : State) : (planReset k s).params = s.params := rfl
@[simp] theorem planReset_free (k : Nat) (s : State) : (planReset k s).free = s.free := rfl

/-! ### landConversion -/

@[simp] theorem landConversion_search (i : Nat) (s : State) : (landConversion i s).search = s.search := rfl
@[simp] theorem landConversion_count (i : Nat) (s : State) : (landConversion i s).count = s.count := rfl
@[simp] theorem landConversion_table (i : Nat) (s : State) : (landConversion i s).table = s.table := rfl
@[simp] theorem landConversion_samples (i : Nat) (s : State) : (landConversion i s).samples = s.samples := rfl
@[simp] theorem landConversion_pin (i : Nat) (s : State) : (landConversion i s).pin = s.pin := rfl
@[simp] theorem landConversion_seq (i : Nat) (s : State) : (landConversion i s).seq = s.seq := rfl
@[simp] theorem landConversion_result (i : Nat) (s : State) : (landConversion i s).result = s.result := rfl
@[simp] theorem landConversion_index (i : Nat) (s : State) : (landConversion i s).index = s.index := rfl
@[simp] theorem landConversion_trace (i : Nat) (s : State) : (landConversion i s).trace = s.trace := rfl
@[simp] theorem landConversion_refusals (i : Nat) (s : State) : (landConversion i s).refusals = s.refusals := rfl
@[simp] theorem landConversion_bus (i : Nat) (s : State) :
    (landConversion i s).bus = { s.bus with population := s.bus.population.land i } := rfl
@[simp] theorem landConversion_agenda (i : Nat) (s : State) : (landConversion i s).agenda = s.agenda := rfl
@[simp] theorem landConversion_pendingReset (i : Nat) (s : State) :
    (landConversion i s).pendingReset = s.pendingReset := rfl
@[simp] theorem landConversion_params (i : Nat) (s : State) : (landConversion i s).params = s.params := rfl
@[simp] theorem landConversion_free (i : Nat) (s : State) : (landConversion i s).free = s.free := rfl

/-! ### planLanding -/

@[simp] theorem planLanding_search (k i : Nat) (s : State) : (planLanding k i s).search = s.search := rfl
@[simp] theorem planLanding_count (k i : Nat) (s : State) : (planLanding k i s).count = s.count := rfl
@[simp] theorem planLanding_table (k i : Nat) (s : State) : (planLanding k i s).table = s.table := rfl
@[simp] theorem planLanding_samples (k i : Nat) (s : State) : (planLanding k i s).samples = s.samples := rfl
@[simp] theorem planLanding_pin (k i : Nat) (s : State) : (planLanding k i s).pin = s.pin := rfl
@[simp] theorem planLanding_seq (k i : Nat) (s : State) : (planLanding k i s).seq = s.seq := rfl
@[simp] theorem planLanding_result (k i : Nat) (s : State) : (planLanding k i s).result = s.result := rfl
@[simp] theorem planLanding_index (k i : Nat) (s : State) : (planLanding k i s).index = s.index := rfl
@[simp] theorem planLanding_trace (k i : Nat) (s : State) : (planLanding k i s).trace = s.trace := rfl
@[simp] theorem planLanding_refusals (k i : Nat) (s : State) : (planLanding k i s).refusals = s.refusals := rfl
@[simp] theorem planLanding_bus (k i : Nat) (s : State) :
    (planLanding k i s).bus = s.bus.planLanding k i := rfl
@[simp] theorem planLanding_agenda (k i : Nat) (s : State) : (planLanding k i s).agenda = s.agenda := rfl
@[simp] theorem planLanding_pendingReset (k i : Nat) (s : State) :
    (planLanding k i s).pendingReset = s.pendingReset := rfl
@[simp] theorem planLanding_params (k i : Nat) (s : State) : (planLanding k i s).params = s.params := rfl
@[simp] theorem planLanding_free (k i : Nat) (s : State) : (planLanding k i s).free = s.free := rfl

/-- With no transaction to wait for, a planned conversion lands now. -/
theorem planLanding_zero (i : Nat) (s : State) : planLanding 0 i s = landConversion i s := rfl

/-! ### setPopulation -/

@[simp] theorem setPopulation_search (p : Population) (s : State) : (setPopulation p s).search = s.search := rfl
@[simp] theorem setPopulation_count (p : Population) (s : State) : (setPopulation p s).count = s.count := rfl
@[simp] theorem setPopulation_table (p : Population) (s : State) : (setPopulation p s).table = s.table := rfl
@[simp] theorem setPopulation_samples (p : Population) (s : State) : (setPopulation p s).samples = s.samples := rfl
@[simp] theorem setPopulation_pin (p : Population) (s : State) : (setPopulation p s).pin = s.pin := rfl
@[simp] theorem setPopulation_seq (p : Population) (s : State) : (setPopulation p s).seq = s.seq := rfl
@[simp] theorem setPopulation_result (p : Population) (s : State) : (setPopulation p s).result = s.result := rfl
@[simp] theorem setPopulation_index (p : Population) (s : State) : (setPopulation p s).index = s.index := rfl
@[simp] theorem setPopulation_trace (p : Population) (s : State) : (setPopulation p s).trace = s.trace := rfl
@[simp] theorem setPopulation_refusals (p : Population) (s : State) : (setPopulation p s).refusals = s.refusals := rfl
@[simp] theorem setPopulation_bus (p : Population) (s : State) :
    (setPopulation p s).bus = { s.bus with population := p } := rfl
@[simp] theorem setPopulation_agenda (p : Population) (s : State) : (setPopulation p s).agenda = s.agenda := rfl
@[simp] theorem setPopulation_pendingReset (p : Population) (s : State) :
    (setPopulation p s).pendingReset = s.pendingReset := rfl
@[simp] theorem setPopulation_params (p : Population) (s : State) : (setPopulation p s).params = s.params := rfl
@[simp] theorem setPopulation_free (p : Population) (s : State) : (setPopulation p s).free = s.free := rfl

end Sys2Proof.Machine
end

