-- ==== Sys2Proof/Laws/Ops.lean ====
section
/-! SUPPORT. One lemma per shared operation that says all it does. -/

namespace Sys2Proof.Machine

@[simp] theorem busReset_answer (s : State) : (busReset s).1 = s.bus.presenceBit := rfl

@[simp] theorem busRead_answer (s : State) : (busRead s).1 = s.bus.readBit := rfl

theorem replay_nil (b : Bus) : b.replay [] = b := rfl

theorem replay_append (b : Bus) (es fs : List Event) : b.replay (es ++ fs) = (b.replay es).replay fs :=
  List.foldl_append ..

theorem replay_cons (b : Bus) (e : Event) (es : List Event) : b.replay (e :: es) = (b.afterEvent e).replay es := rfl

/-! ### `onBus` -/

theorem onBus_append (es fs : List Event) (s : State) : onBus fs (onBus es s) = onBus (es ++ fs) s := by
  simp [onBus, replay_append]

theorem busReset_eq (s : State) : busReset s = (s.bus.presenceBit, onBus [.rst s.bus.presenceBit] s) := rfl

theorem busWrite_eq (b : Bool) (s : State) : busWrite b s = onBus [.w b] s := rfl

theorem busRead_eq (s : State) : busRead s = (s.bus.readBit, onBus [.r s.bus.readBit] s) := rfl

/-- A run of at least one write slot: exactly those slots, in order. -/
theorem writeBits_eq (b : Bool) (bs : List Bool) (s : State) :
    writeBits (b :: bs) s = onBus (writeEvents (b :: bs)) s := by
  induction bs generalizing b s with
  | nil => rfl
  | cons c cs ih =>
    have h : writeBits (b :: c :: cs) s = writeBits (c :: cs) (onBus [.w b] s) := rfl
    rw [h, ih, onBus_append]
    rfl

/-- `WriteByte`: exactly eight write slots, least significant bit first. -/
theorem writeByte_eq (v : Byte) (s : State) : writeByte v s = onBus (writeEvents (byteBits v)) s :=
  writeBits_eq ..

theorem foldl_writeByte_eq (v : Byte) (vs : List Byte) (s : State) :
    (v :: vs).foldl (fun s v => writeByte v s) s = onBus (writeEvents ((v :: vs).flatMap byteBits)) s := by
  induction vs generalizing v s with
  | nil => simp [writeByte_eq]
  | cons c cs ih =>
    rw [List.foldl_cons, ih, writeByte_eq, onBus_append]
    simp [writeEvents]

theorem idBytes_ne_nil (id : Identifier) : ∃ v vs, id.toList = v :: vs := by
  rcases h : id.toList with _ | ⟨v, vs⟩
  · have := congrArg List.length h
    simp at this
  · exact ⟨v, vs, rfl⟩

/-- The 64 bits of an identifier: exactly its slots. -/
theorem writeId_eq (id : Identifier) (s : State) : writeId id s = onBus (writeEvents (idBits id)) s := by
  obtain ⟨v, vs, h⟩ := idBytes_ne_nil id
  rw [writeId, idBits, h, foldl_writeByte_eq]

theorem readBitsFrom_state (i : Nat) (r : Half) (n : Nat) (s : State) :
    (readBitsFrom i r (n + 1) s).2 = onBus (readEvents (n + 1) s.bus) s := by
  induction n generalizing i r s with
  | zero => rfl
  | succ n ih =>
    have h : (readBitsFrom i r (n + 2) s).2 =
        (readBitsFrom (i + 1) (putBit r i s.bus.readBit) (n + 1) (onBus [.r s.bus.readBit] s)).2 := rfl
    rw [h, ih, onBus_append]
    rfl

/-- `ReadBits(16)`: exactly sixteen read slots. -/
theorem readSample_state (s : State) : (readSample s).2 = onBus (readEvents 16 s.bus) s :=
  readBitsFrom_state 0 0 15 s

/-! ### The frames of the sampler -/

theorem addressDevice_eq (i : Nat) (s : State) :
    addressDevice i s = (s.bus.presenceBit, onBus (matchFrameEvents (tableEntry s i) s.bus) s) := by
  unfold addressDevice matchFrameEvents
  cases h : s.bus.presenceBit
  · simp [busReset_eq, h]
  · simp [busReset_eq, h, writeByte_eq, writeId_eq, onBus_append, matchEvents]

/-- The Convert T frame is one run of transactions. -/
theorem convertFrame_eq (i : Nat) (s : State) :
    convertFrame i s = (s.bus.presenceBit, onBus (convertFrameEvents (tableEntry s i) s.bus) s) := by
  unfold convertFrame convertFrameEvents commandEvents
  rw [addressDevice_eq]
  cases h : s.bus.presenceBit
  · simp [matchFrameEvents, h]
  · simp [writeByte_eq, onBus_append]

end Sys2Proof.Machine
end

