-- ==== Sys2Proof/Laws/Bits.lean ====
section
/-! SUPPORT. Setting and reading bits of words, identifiers and samples. -/

namespace Sys2Proof.Machine

/-- Setting bit k sets bit k and no other. -/
theorem getLsbD_putBit {n : Nat} (v : BitVec n) (k j : Nat) (d : Bool) (hk : k < n) :
    (putBit v k d).getLsbD j = if j = k then d else v.getLsbD j := by
  unfold putBit
  by_cases hj : j < n
  · cases d <;> by_cases h : j = k <;>
      simp [BitVec.getLsbD_or, BitVec.getLsbD_and, BitVec.getLsbD_not, BitVec.getLsbD_shiftLeft, BitVec.getLsbD_one,
        hj, h] <;> omega
  · have hne : j ≠ k := by omega
    simp [BitVec.getLsbD_of_ge, Nat.le_of_not_lt hj, hne]

theorem idByte_set (id : Identifier) (i j : Nat) (v : Byte) (hi : i < 8) :
    idByte (id.setIfInBounds i v) j = if j = i then v else idByte id j := by
  unfold idByte
  by_cases h : j = i
  · subst h; simp [hi]
  · have h' : i ≠ j := fun e => h e.symm
    simp [h, h']

/-- Writing position p of an identifier changes position p and no other. -/
theorem idBit_setIdBit (id : Identifier) (p q : Nat) (d : Bool) (hp : 1 ≤ p ∧ p ≤ 64) (hq : 1 ≤ q ∧ q ≤ 64) :
    idBit (setIdBit id p d) q = if q = p then d else idBit id q := by
  unfold idBit setIdBit
  rw [idByte_set _ _ _ _ (by omega)]
  by_cases hb : (q - 1) / 8 = (p - 1) / 8
  · rw [if_pos hb, getLsbD_putBit _ _ _ _ (by omega), hb]
    by_cases h : q = p
    · subst h; simp
    · rw [if_neg h, if_neg (by omega)]
  · rw [if_neg hb, if_neg (by rintro rfl; exact hb rfl)]

/-- An identifier is its 64 bits. -/
theorem ext_idBit (x y : Identifier) (h : ∀ p, 1 ≤ p → p ≤ 64 → idBit x p = idBit y p) : x = y := by
  ext i hi j hj
  have := h (8 * i + j + 1) (by omega) (by omega)
  unfold idBit idByte at this
  have e1 : (8 * i + j + 1 - 1) / 8 = i := by omega
  have e2 : (8 * i + j + 1 - 1) % 8 = j := by omega
  rw [e1, e2] at this
  simpa [hi, BitVec.getLsbD_eq_getElem, hj] using this

/-- Reads k, k+1, ... go to bits k, k+1, ... and leave the others. -/
theorem readBitsFrom_bit (i : Nat) (r : Half) (n : Nat) (s : State) (hn : i + n ≤ 16) (j : Nat) :
    (readBitsFrom i r n s).1.getLsbD j =
      if i ≤ j ∧ j < i + n then ((s.bus.reads n)[j - i]?).getD false else r.getLsbD j := by
  induction n generalizing i r s with
  | zero => rw [readBitsFrom, if_neg (by omega)]
  | succ n ih =>
    rw [readBitsFrom, ih _ _ _ (by omega)]
    rw [getLsbD_putBit _ _ _ _ (by omega)]
    simp only [busRead_answer, busRead_bus, Bus.reads]
    by_cases h1 : j = i
    · subst h1
      rw [if_neg (by omega), if_pos rfl, if_pos (by omega)]
      simp
    · by_cases h2 : i + 1 ≤ j ∧ j < i + 1 + n
      · rw [if_pos h2, if_pos (by omega)]
        have : j - i = (j - (i + 1)) + 1 := by omega
        rw [this]; simp
      · rw [if_neg h2, if_neg h1, if_neg (by omega)]

/-- Bit k of a sample is the answer to read k. -/
theorem readSample_bit (s : State) (k : Nat) (hk : k < 16) :
    (readSample s).1.getLsbD k = ((s.bus.reads 16)[k]?).getD false := by
  have := readBitsFrom_bit 0 0 16 s (by omega) k
  simpa [readSample, Config.sampleBits, hk] using this

theorem reads_length (n : Nat) (b : Bus) : (b.reads n).length = n := by
  induction n generalizing b with
  | zero => rfl
  | succ n ih => simp [Bus.reads, ih]

/-- The value of `ReadBits(16)` is the sample of the sixteen answers. -/
theorem readSample_value (s : State) : (readSample s).1 = sampleOfBits (s.bus.reads 16) := by
  apply BitVec.eq_of_getLsbD_eq
  intro k hk
  rw [readSample_bit s k hk]
  simp [sampleOfBits, hk, BitVec.getLsbD_ofBoolListLE, List.getD_eq_getElem?_getD]

/-- The Read Scratchpad frame is one run of transactions, and its sixteen answers go into `samples[i]`. -/
theorem readFrame_eq (i : Nat) (s : State) :
    readFrame i s = (s.bus.presenceBit,
      if s.bus.presenceBit then
        setSample i (sampleOfBits (frameAnswers (tableEntry s i) s.bus))
          (onBus (readFrameEvents (tableEntry s i) s.bus) s)
      else onBus (readFrameEvents (tableEntry s i) s.bus) s) := by
  unfold readFrame
  rw [addressDevice_eq]
  cases h : s.bus.presenceBit
  · simp [matchFrameEvents, readFrameEvents, h]
  · simp only [if_true, writeByte_eq, onBus_append, readSample_value, readSample_state]
    simp [readFrameEvents, h, frameAnswers, commandEvents, readEvents]
    rfl

end Sys2Proof.Machine
end

