-- ==== Sys2Proof/Laws/Devices.lean ====
section
/-! SUPPORT. What the reference devices do in runs of write slots: while every device only listens, the line is the
master's bit, and each device takes the bits one by one. -/

namespace Sys2Proof.Machine

/-- While no device transmits, the line is the master's bit (60_exceptions.md R249). -/
theorem lineValue_quiet (m : Bool) (ds : List Device) (h : ∀ d ∈ ds, d.output = true) :
    lineValue m ds .noFault = m := by
  simpa [lineValue, wiredAnd] using fun _ => h

/-! ### Conversions that land while transactions go on (60_exceptions.md R255) -/

/-- A transaction is over: the script is not touched. -/
@[simp] theorem tick_script (b : Bus) : b.tick.script = b.script := rfl

@[simp] theorem tick_draws (b : Bus) : b.tick.draws = b.draws := rfl

@[simp] theorem tick_landings (b : Bus) :
    b.tick.landings = (b.landings.filter fun l => 1 < l.transactions).map fun l =>
      { l with transactions := l.transactions - 1 } := rfl

/-- With no conversion to land, the end of a transaction changes nothing. -/
theorem tick_eq_self (b : Bus) (h : b.landings = []) : b.tick = b := by
  cases b
  simp_all [Bus.tick]

/-- What a conversion produces is a reading: bits 15..11 are all equal (60_exceptions.md R245; 44_formatter.md
R208). -/
theorem isReading_reading (d : Device) : isReading d.reading = true := by
  unfold Device.reading
  generalize d.conv = c
  revert c
  decide +kernel

/-- A landing a second time changes nothing. -/
theorem land_land (d : Device) : d.land.land = d.land := by
  unfold Device.land
  split <;> simp_all

/-- All that the end of a transaction does to the devices: those of which a conversion was to land now had it land,
where it was pending, and the others are as they were. -/
theorem tick_devices (b : Bus) (ds : List Device) (f : LineFault) (h : b.population = .reference ds f) :
    ∃ es, b.tick.population = .reference es f ∧ es.length = ds.length ∧ ∀ j d, ds[j]? = some d →
      es[j]? = some (if ∃ l ∈ b.landings, l.transactions ≤ 1 ∧ l.device = j then d.land else d) := by
  have key : ∀ (ls : List Landing) (ds : List Device), ∃ es : List Device,
      ls.foldl (fun (p : Population) l => p.land l.device) (.reference ds f) = .reference es f ∧ es.length = ds.length ∧
      ∀ j d, ds[j]? = some d → es[j]? = some (if ∃ l ∈ ls, l.device = j then d.land else d) := by
    intro ls
    induction ls with
    | nil => exact fun ds => ⟨ds, rfl, rfl, fun j d hj => by simpa using hj⟩
    | cons l ls ih =>
      intro ds
      obtain ⟨es, he, hn, hv⟩ := ih (ds.modify l.device Device.land)
      refine ⟨es, he, by simpa using hn, fun j d hj => ?_⟩
      by_cases hl : l.device = j
      · rw [hv j d.land (by simp [hl, hj])]
        simp [hl, land_land]
      · rw [hv j d (by simp [hl, hj])]
        simp [hl]
  obtain ⟨es, he, hn, hv⟩ := key (b.landings.filter fun l => l.transactions ≤ 1) ds
  refine ⟨es, by simpa [Bus.tick, h] using he, hn, fun j d hj => ?_⟩
  rw [hv j d hj]
  simp [and_assoc]

/-- What a landing leaves of a device: its identifier and its protocol state. -/
def Device.view (d : Device) : Identifier × DeviceState := (d.rom, d.st)

@[simp] theorem land_view (d : Device) : d.land.view = d.view := by
  unfold Device.land
  split <;> rfl

theorem modify_land_views (ds : List Device) (i : Nat) :
    (ds.modify i Device.land).map Device.view = ds.map Device.view := by
  induction ds generalizing i with
  | nil => simp
  | cons d ds ih => cases i <;> simp [ih]

/-- The conversions that land at the end of a transaction leave every device's identifier and protocol state. -/
theorem tick_reference (b : Bus) (ds : List Device) (f : LineFault) (h : b.population = .reference ds f) :
    ∃ es, b.tick.population = .reference es f ∧ es.map Device.view = ds.map Device.view := by
  unfold Bus.tick
  simp only [h]
  generalize b.landings.filter _ = ls
  clear h
  induction ls generalizing ds with
  | nil => exact ⟨ds, rfl, rfl⟩
  | cons l ls ih =>
    obtain ⟨es, he, hv⟩ := ih (ds.modify l.device Device.land)
    exact ⟨es, he, hv.trans (modify_land_views ds l.device)⟩

theorem funcDispatch_view (d : Device) (acc : Byte) :
    (d.funcDispatch acc).view = (d.rom, if acc = Config.cmdReadScratchpad then .readSp 0 else .inactive) := by
  unfold Device.funcDispatch
  split
  · rfl
  · split <;> rfl

/-- What a slot leaves of a device's identifier and protocol state depends on these and the line only. -/
theorem slot_view_congr {d e : Device} (h : d.view = e.view) (line : Bool) :
    (d.slot line).view = (e.slot line).view := by
  obtain ⟨hr, hs⟩ := Prod.mk.inj h
  unfold Device.slot
  rw [← hs]
  cases d.st with
  | search p ph => cases ph <;> simp_all [Device.view, Device.compare, apply_ite]
  | func k acc =>
    simp only
    split
    · rw [funcDispatch_view, funcDispatch_view, hr]
    · simp_all [Device.view]
  | romCmd k acc => simp only; split <;> simp_all [Device.view]
  | matching p => simp only [Device.view, Device.compare, hr]; split <;> (try split) <;> simp_all
  | readSp k => simp_all [Device.view]
  | inactive => exact h

theorem foldl_slot_view_congr (bs : List Bool) {d e : Device} (h : d.view = e.view) :
    (bs.foldl Device.slot d).view = (bs.foldl Device.slot e).view := by
  induction bs generalizing d e with
  | nil => exact h
  | cons x xs ih => exact ih (slot_view_congr h x)

/-- A device that waits for a command byte, or for the identifier of a Match ROM, or is inactive, only listens
(60_exceptions.md R249). -/
def DeviceState.listening : DeviceState → Bool
  | .romCmd _ _ | .matching _ | .func _ _ | .inactive => true
  | .search _ _ | .readSp _ => false

theorem output_of_listening (d : Device) (h : d.st.listening = true) : d.output = true := by
  unfold Device.output
  cases hs : d.st <;> simp_all [DeviceState.listening]

/-- A run of write slots in which every device only listens, with no conversion to land: each takes the bits in
order. -/
theorem replay_writes (bs : List Bool) (b : Bus) (ds : List Device) (hp : b.population = .reference ds .noFault)
    (hl : b.landings = [])
    (hq : ∀ d ∈ ds, ∀ n, n < bs.length → ((bs.take n).foldl Device.slot d).output = true) :
    b.replay (writeEvents bs) =
      { b with population := .reference (ds.map fun d => bs.foldl Device.slot d) .noFault } := by
  induction bs generalizing b ds with
  | nil => simp [writeEvents, replay_nil, ← hp]
  | cons x xs ih =>
    have hx : lineValue x ds .noFault = x :=
      lineValue_quiet x ds fun d hd => by simpa using hq d hd 0 (by simp)
    have h1 : b.afterWrite x = { b with population := .reference (ds.map fun d => d.slot x) .noFault } := by
      rw [Bus.afterWrite, tick_eq_self { b with population := b.population.slot x } hl]
      simp [hp, Population.slot, slotDevices, hx]
    rw [writeEvents, List.map_cons, replay_cons]
    have h2 := ih (b.afterWrite x) (ds.map fun d => d.slot x) (by rw [h1]) (by rw [h1]; exact hl) (by
      intro d hd n hn
      obtain ⟨e, he, rfl⟩ := List.mem_map.mp hd
      have := hq e he (n + 1) (by simpa using hn)
      simpa using this)
    rw [Bus.afterEvent, ← writeEvents, h2, h1]
    simp [Function.comp_def]

/-- What respects the view of a device respects the views of a list of devices. -/
theorem map_congr_views {α : Type} (g : Device → α) (hg : ∀ d e : Device, d.view = e.view → g d = g e)
    {ds es : List Device} (h : es.map Device.view = ds.map Device.view) : es.map g = ds.map g := by
  have hf : ∀ l : List Device, l.map g = (l.map Device.view).map fun v => g ⟨v.1, 0, false, 0, v.2⟩ := by
    intro l
    rw [List.map_map]
    exact List.map_congr_left fun d _ => hg _ _ rfl
  rw [hf, hf, h]

/-- A run of write slots in which every device only listens, whatever conversions land in it: each device takes the
bits in order, as far as its identifier and protocol state show. -/
theorem replay_writes_views (bs : List Bool) (b : Bus) (ds : List Device)
    (hp : b.population = .reference ds .noFault)
    (hq : ∀ d ∈ ds, ∀ n, n < bs.length → ((bs.take n).foldl Device.slot d).st.listening = true) :
    ∃ es, (b.replay (writeEvents bs)).population = .reference es .noFault ∧
      es.map Device.view = ds.map fun d => (bs.foldl Device.slot d).view := by
  induction bs generalizing b ds with
  | nil => exact ⟨ds, hp, rfl⟩
  | cons x xs ih =>
    have hx : lineValue x ds .noFault = x :=
      lineValue_quiet x ds fun d hd => output_of_listening d (by simpa using hq d hd 0 (by simp))
    obtain ⟨es, he, hv⟩ := tick_reference { b with population := b.population.slot x }
      (ds.map fun d => d.slot x) .noFault (by simp [hp, Population.slot, slotDevices, hx])
    obtain ⟨fs, hf, hw⟩ := ih (b.afterWrite x) es he (by
      intro e hm n hn
      have hm' : e.view ∈ (ds.map fun d => d.slot x).map Device.view := hv ▸ List.mem_map_of_mem hm
      obtain ⟨c, hc, hce⟩ := List.mem_map.mp hm'
      obtain ⟨d, hd, rfl⟩ := List.mem_map.mp hc
      have := foldl_slot_view_congr (xs.take n) hce
      rw [← (Prod.mk.inj this).2]
      simpa using hq d hd (n + 1) (by simpa using hn))
    refine ⟨fs, hf, hw.trans ?_⟩
    rw [map_congr_views (fun e => (xs.foldl Device.slot e).view) (fun _ _ h => foldl_slot_view_congr xs h) hv]
    simp

/-- Eight bits taken least significant first make the byte (20_memory.md R57). -/
theorem putBits_byte (v : Byte) :
    putBit (putBit (putBit (putBit (putBit (putBit (putBit (putBit (0 : Byte) 0 (v.getLsbD 0)) 1 (v.getLsbD 1)) 2
      (v.getLsbD 2)) 3 (v.getLsbD 3)) 4 (v.getLsbD 4)) 5 (v.getLsbD 5)) 6 (v.getLsbD 6)) 7 (v.getLsbD 7) = v := by
  revert v; decide

/-- A device takes a ROM command byte (60_exceptions.md R250, R251). -/
theorem slot_romByte (d : Device) (v : Byte) (h : d.st = .romCmd 0 0) :
    (byteBits v).foldl Device.slot d = { d with st := romDispatch v } := by
  simp only [byteBits, List.foldl_cons, List.foldl_nil, Device.slot, h, Nat.reduceAdd, Nat.reduceEqDiff, if_false,
    if_true, putBits_byte]

/-- A selected device takes a function command byte (60_exceptions.md R254, R255). -/
theorem slot_funcByte (d : Device) (v : Byte) (h : d.st = .func 0 0) :
    (byteBits v).foldl Device.slot d = d.funcDispatch v := by
  simp only [byteBits, List.foldl_cons, List.foldl_nil, Device.slot, h, Nat.reduceAdd, Nat.reduceEqDiff, if_false,
    if_true, putBits_byte]
  rfl

/-- An inactive device stays inactive (60_exceptions.md R246). -/
theorem slot_inactive (bs : List Bool) (d : Device) (h : d.st = .inactive) : bs.foldl Device.slot d = d := by
  induction bs with
  | nil => rfl
  | cons x xs ih => rw [List.foldl_cons, Device.slot, h]; exact ih

end Sys2Proof.Machine
end

