-- ==== Sys2Proof/Laws/Encoding.lean ====
section
/-! SUPPORT. The fields of a request word, bit by bit (30_encoding.md R81). -/

namespace Sys2Proof

/-- Every bit of a request word made of its fields. -/
theorem getLsbD_hostWord (op : BitVec 4) (bit : Bool) (byte : Byte) (raw : Half) (i : Nat) :
    (hostWord op bit byte raw).getLsbD i =
      if i < 4 then op.getLsbD i else if i = 4 then bit else if i < 8 then false
      else if i < 16 then byte.getLsbD (i - 8) else raw.getLsbD (i - 16) := by
  have h : hostWord op bit byte raw =
      (raw ++ (byte ++ (0#3 ++ (BitVec.ofBool bit ++ op) : BitVec (3 + (1 + 4))) : BitVec (8 + (3 + (1 + 4)))) :
        BitVec (16 + (8 + (3 + (1 + 4))))) := rfl
  rw [h]
  simp only [BitVec.getLsbD_append, BitVec.getLsbD_ofBool]
  repeat' split
  all_goals first | omega | simp_all

theorem opField_hostWord (op : BitVec 4) (bit : Bool) (byte : Byte) (raw : Half) :
    (hostWord op bit byte raw).opField = op := by
  apply BitVec.eq_of_getLsbD_eq
  intro i hi
  simp [Word.opField, getLsbD_hostWord, hi]

theorem bitField_hostWord (op : BitVec 4) (bit : Bool) (byte : Byte) (raw : Half) :
    (hostWord op bit byte raw).bitField = bit := by
  rw [Word.bitField, getLsbD_hostWord]
  rfl

theorem reservedField_hostWord (op : BitVec 4) (bit : Bool) (byte : Byte) (raw : Half) :
    (hostWord op bit byte raw).reservedField = 0 := by
  apply BitVec.eq_of_getLsbD_eq
  intro i hi
  have h4 : ¬5 + i < 4 := by omega
  have h5 : ¬5 + i = 4 := by omega
  simp [Word.reservedField, getLsbD_hostWord, h4, h5, show 5 + i < 8 by omega]

theorem byteField_hostWord (op : BitVec 4) (bit : Bool) (byte : Byte) (raw : Half) :
    (hostWord op bit byte raw).byteField = byte := by
  apply BitVec.eq_of_getLsbD_eq
  intro i hi
  have h4 : ¬8 + i < 4 := by omega
  have h5 : ¬8 + i = 4 := by omega
  simp [Word.byteField, getLsbD_hostWord, h4, h5, hi, show 8 + i < 16 by omega]

theorem rawField_hostWord (op : BitVec 4) (bit : Bool) (byte : Byte) (raw : Half) :
    (hostWord op bit byte raw).rawField = raw := by
  apply BitVec.eq_of_getLsbD_eq
  intro i hi
  have h4 : ¬16 + i < 4 := by omega
  have h5 : ¬16 + i = 4 := by omega
  have h8 : ¬16 + i < 8 := by omega
  simp [Word.rawField, getLsbD_hostWord, h4, h5, h8, hi]

/-- The data bytes a request word made of its fields asks for (30_encoding.md R85). -/
theorem operandBytes_hostWord (op : BitVec 4) (bit : Bool) (byte : Byte) (raw : Half) (data : List Byte) :
    Packet.operandBytes (.hostOp (hostWord op bit byte raw) data) = if op = 5 then byte.toNat else 0 := by
  have ho := opField_hostWord op bit byte raw
  have hb := byteField_hostWord op bit byte raw
  rw [Word.opField] at ho
  rw [Word.byteField] at hb
  rw [Packet.operandBytes, ho, hb]
  rfl

end Sys2Proof
end

