-- ==== Sys2Proof/Laws/PerInstr.lean ====
section
/-! SUPPORT. Statements made of every instruction, one lemma per constructor. -/

namespace Sys2Proof.Laws.EncodedWell

open Sys2Proof.Machine

/-- The encoding of a well-formed instruction is a well-formed packet, and it is a host word just where the
instruction is a host operation (30_encoding.md R81, R85, R90, R101). -/
def Statement (i : Instr) : Prop :=
  i.wellFormed = true →
    (encode i).wellFormed = true ∧ ((hostOpOf i).isSome = true ↔ ∃ w data, encode i = .hostOp w data)

theorem owReset : Statement .owReset := fun _ => ⟨by decide, by simp [hostOpOf, encode]⟩

theorem owWriteBit (b : Bool) : Statement (.owWriteBit b) := fun _ => by
  cases b <;> exact ⟨by decide, by simp [hostOpOf, encode]⟩

theorem owReadBit : Statement .owReadBit := fun _ => ⟨by decide, by simp [hostOpOf, encode]⟩

theorem owWriteByte (v : Byte) : Statement (.owWriteByte v) := fun _ => by
  simp only [encode, Packet.wellFormed, operandBytes_hostWord]
  simp [hostOpOf]

theorem crc8 (data : List Byte) : Statement (.crc8 data) := fun h => by
  have hl : data.length ≤ 255 := by simpa [Instr.wellFormed] using h
  simp only [encode, Packet.wellFormed, operandBytes_hostWord]
  simp [hostOpOf]
  omega

theorem discoverAll : Statement .discoverAll := fun _ => ⟨by decide, by simp [hostOpOf, encode]⟩

theorem sampleAll : Statement .sampleAll := fun _ => ⟨by decide, by simp [hostOpOf, encode]⟩

theorem format (unit : TempUnit) (raw : Half) : Statement (.format unit raw) := fun _ => by
  simp only [encode, Packet.wellFormed, operandBytes_hostWord]
  simp [hostOpOf]

theorem searchRom : Statement .searchRom := fun _ => ⟨by decide, by simp [hostOpOf, encode]⟩

theorem matchRom : Statement .matchRom := fun _ => ⟨by decide, by simp [hostOpOf, encode]⟩

theorem readScratchpad : Statement .readScratchpad := fun _ => ⟨by decide, by simp [hostOpOf, encode]⟩

theorem convertT : Statement .convertT := fun _ => ⟨by decide, by simp [hostOpOf, encode]⟩

end Sys2Proof.Laws.EncodedWell
end

