-- ==== Sys2Proof/Laws/Search.lean ====
section
/-! SUPPORT. What a search position and a pass can do. -/

namespace Sys2Proof.Machine

/-- The search registers at a position whose reads are a and b. -/
def positionSearch (a b : Bool) (p : Fin 65) (r : Search) : Search :=
  if a && b then { r with p := p }
  else { r with
    p := p
    marker := (chooseDirection a b p r).2
    idBuf := setIdBit r.idBuf p.val (chooseDirection a b p r).1 }

/-- The slots of a position whose reads are a and b: a triplet, or two reads (30_encoding.md R92). -/
def positionEvents (a b : Bool) (p : Fin 65) (r : Search) : List Event :=
  if a && b then [.r a, .r b] else [.r a, .r b, .w (chooseDirection a b p r).1]

/-- A search position does its slots and its registers, and nothing else. -/
theorem searchPosition_eq (p : Fin 65) (s : State) :
    searchPosition p s =
      (!(s.bus.readBit && s.bus.afterRead.readBit),
        onBus (positionEvents s.bus.readBit s.bus.afterRead.readBit p s.search)
          { s with search := positionSearch s.bus.readBit s.bus.afterRead.readBit p s.search }) := by
  unfold searchPosition positionSearch positionEvents
  simp only [busRead_answer, busRead_bus, atPosition_bus]
  by_cases h : (s.bus.readBit && s.bus.afterRead.readBit) = true
  · simp only [if_pos h, busRead_eq, onBus_append]
    rw [h]
    rfl
  · simp only [if_neg h, takeDirection, busWrite_eq, busRead_eq, onBus_append]
    rw [Bool.not_eq_true _ |>.mp h]
    rfl

/-- The reset and the command byte before the first position (30_encoding.md R92). -/
def searchStart (s : State) : State :=
  clearMarker (writeByte Config.cmdSearchRom (busReset s).2)

theorem searchStart_eq (s : State) :
    searchStart s = onBus (.rst s.bus.presenceBit :: writeEvents (byteBits Config.cmdSearchRom))
      { s with search := { s.search with marker := 0 } } := by
  unfold searchStart
  rw [busReset_eq, writeByte_eq, onBus_append]
  rfl

theorem searchFrame_absent (s : State) (h : s.bus.presenceBit = false) :
    searchFrame s = (.absent, onBus [.rst false] s) := by
  simp [searchFrame, busReset_eq, h]

theorem searchFrame_present (s : State) (h : s.bus.presenceBit = true) :
    searchFrame s = searchPositions 64 (searchStart s) := by
  simp [searchFrame, h, searchStart, Config.idBits]

@[simp] theorem onBus_pin (es : List Event) (s : State) : (onBus es s).pin = Pin.afterSlot := rfl

theorem onBus_nil (s : State) (h : s.pin = Pin.afterSlot) : onBus [] s = s := by
  simp [onBus, replay_nil, ← h]

/-- The position p that stands before the last n positions (10_state.md R25). -/
theorem positionIndex (n : Nat) (hn : n < 64) : (Fin.ofNat 65 (Config.idBits - n)).val = 64 - n := by
  simp [Config.idBits, Fin.ofNat]
  omega

/-- The slots of a position that was taken: two reads and the write of the direction (30_encoding.md R92). -/
def triplet (x : Bool × Bool × Bool) : List Event := [.r x.1, .r x.2.1, .w x.2.2]

/-- The last n positions of a pass: triplets, all n of them, or fewer and then two reads of 1; where the reads differ
the direction is the devices' bit; and only `idBuf`, `marker` and `p` change. -/
theorem searchPositions_eq (n : Nat) (hn : n ≤ 64) (s : State) (h : s.pin = Pin.afterSlot) :
    ∃ (ts : List (Bool × Bool × Bool)) (tail : List Event) (r : Search),
      (searchPositions n s).2 = onBus (ts.flatMap triplet ++ tail) { s with search := r } ∧
      r.lastDiscrepancy = s.search.lastDiscrepancy ∧ r.done = s.search.done ∧
      (∀ x ∈ ts, ¬(x.1 = true ∧ x.2.1 = true) ∧ (x.1 ≠ x.2.1 → x.2.2 = x.1)) ∧
      match (searchPositions n s).1 with
      | .absent => False
      | .noResponse p => ts.length < n ∧ p = 64 - n + ts.length + 1 ∧ tail = [.r true, .r true]
      | .complete => ts.length = n ∧ tail = [] := by
  induction n generalizing s with
  | zero => exact ⟨[], [], s.search, (onBus_nil s h).symm, rfl, rfl, by simp, rfl, rfl⟩
  | succ n ih =>
    have hp := positionIndex n (by omega)
    rw [searchPositions]
    simp only [searchPosition_eq]
    generalize Fin.ofNat 65 (Config.idBits - n) = p at hp
    cases hab : s.bus.readBit && s.bus.afterRead.readBit
    · simp only [Bool.not_false, if_true]
      obtain ⟨ts, tail, r, he, hl, hd, ht, hm⟩ :=
        ih (by omega) (onBus (positionEvents s.bus.readBit s.bus.afterRead.readBit p s.search)
          { s with search := positionSearch s.bus.readBit s.bus.afterRead.readBit p s.search }) rfl
      have hr : positionEvents s.bus.readBit s.bus.afterRead.readBit p s.search =
          triplet (s.bus.readBit, s.bus.afterRead.readBit,
            (chooseDirection s.bus.readBit s.bus.afterRead.readBit p s.search).1) := by
        simp [positionEvents, hab, triplet]
      refine ⟨(s.bus.readBit, s.bus.afterRead.readBit,
        (chooseDirection s.bus.readBit s.bus.afterRead.readBit p s.search).1) :: ts, tail, r, ?_, ?_, ?_, ?_, ?_⟩
      · rw [he, hr]
        simp [onBus, replay_append]
      · rw [hl]; simp [positionSearch, hab, onBus]
      · rw [hd]; simp [positionSearch, hab, onBus]
      · intro x hx
        rcases List.mem_cons.mp hx with rfl | hx
        · refine ⟨?_, fun hne => by simp [chooseDirection, hne]⟩
          rintro ⟨h1, h2⟩
          simp_all
        · exact ht x hx
      · revert hm
        generalize (searchPositions n _).1 = e
        intro hm
        cases e with
        | absent => exact hm
        | noResponse q => exact ⟨by simpa using hm.1, by simp; omega, hm.2.2⟩
        | complete => exact ⟨by simpa using hm.1, hm.2⟩
    · simp only [Bool.not_true, Bool.false_eq_true, if_false]
      refine ⟨[], [.r true, .r true], positionSearch s.bus.readBit s.bus.afterRead.readBit p s.search,
        ?_, ?_, ?_, by simp, by simp, by simp; omega, rfl⟩
      · have h1 : s.bus.readBit = true := by simp_all
        have h2 : s.bus.afterRead.readBit = true := by simp_all
        simp [positionEvents, h1, h2]
      · simp [positionSearch, hab]
      · simp [positionSearch, hab]

end Sys2Proof.Machine
end

