-- ==== Sys2Proof/Laws/Trace.lean ====
section
/-! SUPPORT. What every operation keeps: the trace only grows, the bus receives exactly the transactions that
stand in it, and nothing but the block's own record changes. -/

namespace Sys2Proof.Machine

/-- From s to t the events es were appended, the bus received exactly their transactions, and no field of the
host, the platform or the parameters changed. -/
structure Did (es : List Event) (s t : State) : Prop where
  trace : t.trace = s.trace ++ es
  bus : t.bus = s.bus.replay es
  agenda : t.agenda = s.agenda
  refusals : t.refusals = s.refusals
  pendingReset : t.pendingReset = s.pendingReset
  params : t.params = s.params

theorem Did.trans {es fs : List Event} {s t u : State} (h : Did es s t) (g : Did fs t u) :
    Did (es ++ fs) s u where
  trace := by rw [g.trace, h.trace, List.append_assoc]
  bus := by rw [g.bus, h.bus, replay_append]
  agenda := g.agenda.trans h.agenda
  refusals := g.refusals.trans h.refusals
  pendingReset := g.pendingReset.trans h.pendingReset
  params := g.params.trans h.params

theorem did_refl (s : State) : Did [] s s := ⟨by simp, rfl, rfl, rfl, rfl, rfl⟩

theorem did_onBus (es : List Event) (s : State) : Did es s (onBus es s) := ⟨rfl, rfl, rfl, rfl, rfl, rfl⟩

theorem did_raise (o : OutcomeEvent) (s : State) : Did [.oc o] s (raise o s) := ⟨rfl, rfl, rfl, rfl, rfl, rfl⟩

theorem did_startOp (o : HostOp) (i : Instr) (s : State) : Did [.op o] s (startOp o i s) :=
  ⟨rfl, rfl, rfl, rfl, rfl, rfl⟩

theorem did_returnOp (v : Result) (s : State) : Did [] s (returnOp v s) := ⟨by simp, rfl, rfl, rfl, rfl, rfl⟩

theorem did_setSample (i : Nat) (v : Half) (s : State) : Did [] s (setSample i v s) :=
  ⟨by simp, rfl, rfl, rfl, rfl, rfl⟩

theorem did_atIndex (i : Nat) (s : State) : Did [] s (atIndex i s) := ⟨by simp, rfl, rfl, rfl, rfl, rfl⟩

theorem did_writeByte (v : Byte) (s : State) : Did (writeEvents (byteBits v)) s (writeByte v s) := by
  rw [writeByte_eq]; exact did_onBus ..

theorem did_searchPosition (p : Fin 65) (s : State) : ∃ es, Did es s (searchPosition p s).2 := by
  rw [searchPosition_eq]; exact ⟨_, rfl, rfl, rfl, rfl, rfl, rfl⟩

theorem did_searchPositions (n : Nat) (s : State) : ∃ es, Did es s (searchPositions n s).2 := by
  induction n generalizing s with
  | zero => exact ⟨[], did_refl s⟩
  | succ n ih =>
    obtain ⟨es, h⟩ := did_searchPosition (Fin.ofNat 65 (Config.idBits - n)) s
    rw [searchPositions]
    split
    · obtain ⟨fs, g⟩ := ih (searchPosition (Fin.ofNat 65 (Config.idBits - n)) s).2
      exact ⟨_, h.trans g⟩
    · exact ⟨_, h⟩

theorem did_searchFrame (s : State) : ∃ es, Did es s (searchFrame s).2 := by
  cases h : s.bus.presenceBit
  · rw [searchFrame_absent s h]; exact ⟨_, did_onBus ..⟩
  · rw [searchFrame_present s h]
    obtain ⟨es, g⟩ := did_searchPositions 64 (searchStart s)
    have h0 : ∃ es, Did es s (searchStart s) := by rw [searchStart_eq]; exact ⟨_, rfl, rfl, rfl, rfl, rfl, rfl⟩
    obtain ⟨fs, h0⟩ := h0
    exact ⟨_, h0.trans g⟩

theorem did_discoverReturn (s : State) : ∃ es, Did es s (discoverReturn s) := by
  unfold discoverReturn
  split
  · exact ⟨_, (did_raise ..).trans (did_returnOp ..)⟩
  · exact ⟨_, did_returnOp ..⟩

theorem did_discoverLoop (s : State) : ∃ es, Did es s (discoverLoop s) := by
  unfold discoverLoop
  split
  · exact ⟨[], by simp, rfl, rfl, rfl, rfl, rfl⟩
  · exact did_discoverReturn s

theorem did_validate (s : State) : ∃ es, Did es s (validate s) := by
  unfold validate
  split
  · exact ⟨[], by simp, rfl, rfl, rfl, rfl, rfl⟩
  · exact ⟨_, rfl, rfl, rfl, rfl, rfl, rfl⟩

theorem did_discoverPass (s : State) : ∃ es, Did es s (discoverPass s) := by
  obtain ⟨es, h⟩ := did_searchFrame s
  unfold discoverPass
  simp only
  split
  · obtain ⟨fs, g⟩ := did_discoverReturn (raise .busAbsentDiscover (searchFrame s).2)
    exact ⟨_, h.trans ((did_raise ..).trans g)⟩
  · next p _ =>
    obtain ⟨fs, g⟩ := did_discoverLoop (passFailed (raise (.searchAbortNoResponse p) (searchFrame s).2))
    have f : Did [.oc (.searchAbortNoResponse p)] (searchFrame s).2
        (passFailed (raise (.searchAbortNoResponse p) (searchFrame s).2)) := ⟨rfl, rfl, rfl, rfl, rfl, rfl⟩
    exact ⟨_, h.trans (f.trans g)⟩
  · obtain ⟨gs, g'⟩ := did_validate (searchFrame s).2
    obtain ⟨fs, g⟩ := did_discoverLoop (validate (searchFrame s).2)
    exact ⟨_, h.trans (g'.trans g)⟩

theorem did_discoverTurn (s : State) : ∃ es, Did es s (discoverTurn s) := by
  unfold discoverTurn
  split
  · exact did_discoverPass s
  · exact did_discoverReturn s

theorem did_runDiscoverAll (s : State) : ∃ es, Did es s (runDiscoverAll s) := by
  obtain ⟨es, h⟩ := did_discoverTurn (discoverInit s)
  exact ⟨_, Did.trans (⟨by simp, rfl, rfl, rfl, rfl, rfl⟩ : Did [] s (discoverInit s)) h⟩

theorem did_addressDevice (i : Nat) (s : State) : ∃ es, Did es s (addressDevice i s).2 := by
  rw [addressDevice_eq]; exact ⟨_, did_onBus ..⟩

theorem did_convertFrame (i : Nat) (s : State) : ∃ es, Did es s (convertFrame i s).2 := by
  rw [convertFrame_eq]; exact ⟨_, did_onBus ..⟩

theorem did_readFrame (i : Nat) (s : State) : ∃ es, Did es s (readFrame i s).2 := by
  rw [readFrame_eq]
  cases s.bus.presenceBit
  · exact ⟨_, did_onBus ..⟩
  · exact ⟨_, rfl, rfl, rfl, rfl, rfl, rfl⟩

theorem did_sampleDevice (i : Nat) (s : State) : ∃ es, Did es s (sampleDevice i s).2 := by
  obtain ⟨es, h⟩ := did_readFrame i (atIndex i s)
  unfold sampleDevice
  simp only
  split
  · obtain ⟨fs, g⟩ := did_convertFrame i (readFrame i (atIndex i s)).2
    cases hc : (convertFrame i (readFrame i (atIndex i s)).2).1
    · exact ⟨_, (did_atIndex i s).trans (h.trans (g.trans (did_raise ..)))⟩
    · exact ⟨_, (did_atIndex i s).trans (h.trans g)⟩
  · exact ⟨_, (did_atIndex i s).trans (h.trans (did_raise ..))⟩

theorem did_sampleFrom (i n : Nat) (s : State) : ∃ es, Did es s (sampleFrom i n s) := by
  induction n generalizing i s with
  | zero => exact ⟨[], did_refl s⟩
  | succ n ih =>
    obtain ⟨es, h⟩ := did_sampleDevice i s
    rw [sampleFrom]
    split
    · obtain ⟨fs, g⟩ := ih (i + 1) (sampleDevice i s).2
      exact ⟨_, h.trans g⟩
    · exact ⟨_, h⟩

theorem did_runFormat (u : TempUnit) (raw : Half) (s : State) : ∃ es, Did es s (runFormat u raw s) := by
  unfold runFormat
  split
  · exact ⟨_, (did_raise ..).trans (did_returnOp ..)⟩
  · split
    · exact ⟨_, did_returnOp ..⟩
    · exact ⟨[], by simp, rfl, rfl, rfl, rfl, rfl⟩

end Sys2Proof.Machine
end

