-- ==== Sys2Proof/Laws/Step.lean ====
section
/-! SUPPORT. What one step can do, said once: the cases of a step that answers a next state. -/

namespace Sys2Proof.Machine

/-- Every instruction answers a next state. -/
theorem exec_answers (i : Instr) (s : State) : ∃ t, exec i s = .next t := by
  cases i <;> exact ⟨_, rfl⟩

/-- A request word decodes to a host operation, or to nothing (30_encoding.md R101). -/
theorem decode_request {q : Request} {i : Instr} (h : decode q.packet = .ok i) : ∃ o, hostOpOf i = some o := by
  have h' : decodeHostOp q.word q.data = .ok i := h
  unfold decodeHostOp require at h'
  repeat' split at h'
  all_goals cases h' <;> exact ⟨_, rfl⟩

/-- What a step can do: with no move it waits; it takes up a word, and runs the decoded instruction, or stops at
position 0 of it, or refuses it; the block is reset; a reset is planned; a conversion lands, now or as planned; the
population changes; or the block goes on with the operation it is BUSY with, where no move is to be made now. -/
theorem step_cases {s t : State} (h : step s = .next t) :
    (s.seq = .idle ∧ s.agenda = [] ∧ t = s) ∨
    (∃ m rest p i u, s.seq = .idle ∧ s.agenda = m :: rest ∧ m.packet = some p ∧ (∀ q, m ≠ .start q) ∧
      decode p = .ok i ∧ exec i { s with agenda := rest } = .next u ∧ t = landReset { s with agenda := rest } u) ∨
    (∃ rest q i o, s.seq = .idle ∧ s.agenda = .start q :: rest ∧ decode q.packet = .ok i ∧ hostOpOf i = some o ∧
      t = landReset { s with agenda := rest } (startOp o i { s with agenda := rest })) ∨
    (∃ m rest p r, s.agenda = m :: rest ∧ m.packet = some p ∧ t = refuseWord r { s with agenda := rest } ∧
      ((s.seq = .idle ∧ decode p = .error r) ∨ (s.seq ≠ .idle ∧ (∃ q, m = .intrude q) ∧ r = .busy))) ∨
    (∃ rest, s.agenda = .blockReset :: rest ∧ t = blockReset { s with agenda := rest }) ∨
    (∃ k rest, s.agenda = .resetAfter k :: rest ∧ t = planReset k { s with agenda := rest }) ∨
    (∃ d rest, s.agenda = .landConversion d :: rest ∧ t = landConversion d { s with agenda := rest }) ∨
    (∃ k d rest, s.agenda = .landAfter k d :: rest ∧ t = planLanding k d { s with agenda := rest }) ∨
    (∃ p rest, s.seq = .idle ∧ s.agenda = .population p :: rest ∧ t = setPopulation p { s with agenda := rest }) ∨
    (∃ i pos, s.seq = .busy i pos ∧ t = landReset s (goOn i pos s) ∧
      (s.agenda = [] ∨ ∃ m rest, s.agenda = m :: rest ∧ m.waits = true)) := by
  have accepted : ∀ m rest p, s.seq = .idle → s.agenda = m :: rest → m.packet = some p →
      (∀ q, m ≠ .start q) → accept p (dropMove s) = .next t →
      (∃ m rest p i u, s.seq = .idle ∧ s.agenda = m :: rest ∧ m.packet = some p ∧ (∀ q, m ≠ .start q) ∧
        decode p = .ok i ∧ exec i { s with agenda := rest } = .next u ∧ t = landReset { s with agenda := rest } u) ∨
      (∃ m rest p r, s.agenda = m :: rest ∧ m.packet = some p ∧ t = refuseWord r { s with agenda := rest } ∧
        ((s.seq = .idle ∧ decode p = .error r) ∨ (s.seq ≠ .idle ∧ (∃ q, m = .intrude q) ∧ r = .busy))) := by
    intro m rest p hi ha hp hns hx
    have hd : dropMove s = { s with agenda := rest } := by simp [dropMove, ha]
    rw [hd, accept] at hx
    cases hdec : decode p with
    | ok i =>
      obtain ⟨u, hu⟩ := exec_answers i { s with agenda := rest }
      rw [hdec] at hx
      simp only [hu, landIn, Host.Outcome.next.injEq] at hx
      exact .inl ⟨m, rest, p, i, u, hi, ha, hp, hns, hdec, hu, hx.symm⟩
    | error r =>
      rw [hdec] at hx
      simp only [Host.Outcome.next.injEq] at hx
      exact .inr ⟨m, rest, p, r, ha, hp, hx.symm, .inl ⟨hi, hdec⟩⟩
  have hs : s.seq = .idle ∨ ∃ i pos, s.seq = .busy i pos := by
    cases s.seq with
    | idle => exact .inl rfl
    | busy i pos => exact .inr ⟨i, pos, rfl⟩
  rcases hs with hq | ⟨i, pos, hq⟩
  · rw [step, stepAgents, hq] at h
    simp only [idleStep] at h
    rcases ha : s.agenda with _ | ⟨m, rest⟩
    · rw [ha] at h
      exact .inl ⟨hq, rfl, (Host.Outcome.next.inj h).symm⟩
    · have hd : dropMove s = { s with agenda := rest } := by simp [dropMove, ha]
      rw [ha] at h
      cases m with
      | issue q =>
        rcases accepted _ _ q.packet hq ha rfl (by simp) h with g | g
        · exact .inr (.inl (by simpa only [ha] using g))
        · exact .inr (.inr (.inr (.inl (by simpa only [ha] using g))))
      | start q =>
        have hx : acceptStart q (dropMove s) = .next t := h
        rw [acceptStart] at hx
        cases hdec : decode q.packet with
        | error r =>
          rw [hdec] at hx
          refine .inr (.inr (.inr (.inl ⟨_, rest, q.packet, r, rfl, rfl, ?_, .inl ⟨hq, hdec⟩⟩)))
          rw [← hd]
          exact (Host.Outcome.next.inj hx).symm
        | ok i =>
          obtain ⟨o, ho⟩ := decode_request hdec
          rw [hdec, hd] at hx
          simp only [ho, landIn, Host.Outcome.next.injEq] at hx
          exact .inr (.inr (.inl ⟨rest, q, i, o, hq, rfl, hdec, ho, hx.symm⟩))
      | intrude q =>
        rcases accepted _ _ q.packet hq ha rfl (by simp) h with g | g
        · exact .inr (.inl (by simpa only [ha] using g))
        · exact .inr (.inr (.inr (.inl (by simpa only [ha] using g))))
      | frame b =>
        rcases accepted _ _ (.busCmd b) hq ha rfl (by simp) h with g | g
        · exact .inr (.inl (by simpa only [ha] using g))
        · exact .inr (.inr (.inr (.inl (by simpa only [ha] using g))))
      | blockReset =>
        exact .inr (.inr (.inr (.inr (.inl ⟨rest, rfl, by rw [← hd]; exact (Host.Outcome.next.inj h).symm⟩))))
      | resetAfter k =>
        exact .inr (.inr (.inr (.inr (.inr (.inl ⟨k, rest, rfl, by rw [← hd]; exact (Host.Outcome.next.inj h).symm⟩)))))
      | landConversion d =>
        exact .inr (.inr (.inr (.inr (.inr (.inr (.inl
          ⟨d, rest, rfl, by rw [← hd]; exact (Host.Outcome.next.inj h).symm⟩))))))
      | landAfter k d =>
        exact .inr (.inr (.inr (.inr (.inr (.inr (.inr (.inl
          ⟨k, d, rest, rfl, by rw [← hd]; exact (Host.Outcome.next.inj h).symm⟩)))))))
      | population p =>
        exact .inr (.inr (.inr (.inr (.inr (.inr (.inr (.inr (.inl
          ⟨p, rest, hq, rfl, by rw [← hd]; exact (Host.Outcome.next.inj h).symm⟩))))))))
  · rw [step, stepAgents, hq] at h
    simp only [busyStep, proceed] at h
    rcases ha : s.agenda with _ | ⟨m, rest⟩
    · rw [ha] at h
      exact .inr (.inr (.inr (.inr (.inr (.inr (.inr (.inr (.inr ⟨i, pos, hq, (Host.Outcome.next.inj h).symm, .inl rfl⟩))))))))
    · have hd : dropMove s = { s with agenda := rest } := by simp [dropMove, ha]
      rw [ha] at h
      cases m with
      | issue q =>
        exact .inr (.inr (.inr (.inr (.inr (.inr (.inr (.inr (.inr ⟨i, pos, hq, (Host.Outcome.next.inj h).symm,
          .inr ⟨_, rest, rfl, rfl⟩⟩))))))))
      | frame b =>
        exact .inr (.inr (.inr (.inr (.inr (.inr (.inr (.inr (.inr ⟨i, pos, hq, (Host.Outcome.next.inj h).symm,
          .inr ⟨_, rest, rfl, rfl⟩⟩))))))))
      | start q =>
        exact .inr (.inr (.inr (.inr (.inr (.inr (.inr (.inr (.inr ⟨i, pos, hq, (Host.Outcome.next.inj h).symm,
          .inr ⟨_, rest, rfl, rfl⟩⟩))))))))
      | intrude q =>
        exact .inr (.inr (.inr (.inl ⟨_, rest, q.packet, .busy, rfl, rfl, by rw [← hd]; exact (Host.Outcome.next.inj h).symm,
          .inr ⟨by rw [hq]; simp, ⟨q, rfl⟩, rfl⟩⟩)))
      | blockReset =>
        exact .inr (.inr (.inr (.inr (.inl ⟨rest, rfl, by rw [← hd]; exact (Host.Outcome.next.inj h).symm⟩))))
      | resetAfter k =>
        exact .inr (.inr (.inr (.inr (.inr (.inl ⟨k, rest, rfl, by rw [← hd]; exact (Host.Outcome.next.inj h).symm⟩)))))
      | landConversion d =>
        exact .inr (.inr (.inr (.inr (.inr (.inr (.inl
          ⟨d, rest, rfl, by rw [← hd]; exact (Host.Outcome.next.inj h).symm⟩))))))
      | landAfter k d =>
        exact .inr (.inr (.inr (.inr (.inr (.inr (.inr (.inl
          ⟨k, d, rest, rfl, by rw [← hd]; exact (Host.Outcome.next.inj h).symm⟩)))))))
      | population p =>
        exact .inr (.inr (.inr (.inr (.inr (.inr (.inr (.inr (.inr ⟨i, pos, hq, (Host.Outcome.next.inj h).symm,
          .inr ⟨_, rest, rfl, rfl⟩⟩))))))))

/-- A block reset in the step, or none: what `landReset` can answer. -/
theorem landReset_cases (s t : State) :
    (s.pendingReset = none ∧ landReset s t = t) ∨
    (∃ k, s.pendingReset = some k ∧ k ≤ transactions (t.trace.drop s.trace.length) ∧
      landReset s t = cutShort k s t) ∨
    (∃ k, s.pendingReset = some k ∧ transactions (t.trace.drop s.trace.length) < k ∧
      landReset s t = { t with pendingReset := some (k - transactions (t.trace.drop s.trace.length)) }) := by
  unfold landReset
  cases h : s.pendingReset with
  | none => exact .inl ⟨rfl, rfl⟩
  | some k =>
    by_cases hk : k ≤ transactions (t.trace.drop s.trace.length)
    · exact .inr (.inl ⟨k, rfl, hk, by simp only [if_pos hk]⟩)
    · exact .inr (.inr ⟨k, rfl, Nat.lt_of_not_le hk, by simp only [if_neg hk]⟩)

/-- What is kept where a reset lands is the beginning of what the operation performs. -/
theorem uptoTransactions_prefix (k : Nat) (es : List Event) : uptoTransactions k es <+: es := by
  induction es generalizing k with
  | nil => simp [uptoTransactions]
  | cons e es ih =>
    cases k with
    | zero => cases e <;> simp [uptoTransactions, ih]
    | succ k => simp [uptoTransactions, ih]

/-- Where a reset lands after k transactions, exactly k are kept. -/
theorem transactions_uptoTransactions (k : Nat) (es : List Event) (h : k ≤ transactions es) :
    transactions (uptoTransactions k es) = k := by
  induction es generalizing k with
  | nil => simp only [uptoTransactions, transactions, List.countP_nil] at h ⊢; omega
  | cons e es ih =>
    cases k with
    | zero =>
      have := ih 0 (Nat.zero_le _)
      cases e <;> simp_all [uptoTransactions, transactions, Event.isTransaction]
    | succ k =>
      rw [uptoTransactions]
      cases he : e.isTransaction
      · have := ih (k + 1) (by simpa [transactions, he] using h)
        simpa [transactions, he] using this
      · have := ih k (by simpa [transactions, he] using h)
        simpa [transactions, he] using this

end Sys2Proof.Machine
end

