-- ==== Sys2Proof/Laws/Timing.lean ====
section
/-! SUPPORT. What a transaction may take on a platform whose delays return late, said once for each kind. -/

namespace Sys2Proof.Machine

/-- The three waits of a reset (40_bitlink.md R110, R124 to R127). -/
theorem took_reset {t : Timing} {p : Bool} {x : Took} (h : x.Ok t (.rst p)) :
    ∃ low wait rest, x.waits = [low, wait, rest] ∧ x.total = low + (wait + rest) ∧
      t.rstl ≤ low ∧ low ≤ t.rstlMax ∧ t.pdwait ≤ wait ∧ t.presenceFrom ≤ wait ∧ wait ≤ t.presenceTo ∧
      t.rstTotal - t.rstl - t.pdwait ≤ rest := by
  obtain ⟨ws, n⟩ := x
  obtain ⟨hx, hy⟩ := h
  simp only [Took.NoSooner, Event.program, delays, wireReset, List.filterMap_cons, List.filterMap_nil,
    List.forall₂_cons_left_iff, List.forall₂_nil_left_iff, Delay.ns] at hx
  obtain ⟨a, _, ha, ⟨b, _, hb, ⟨c, _, hc, rfl, rfl⟩, rfl⟩, rfl⟩ := hx
  obtain ⟨h1, h2, h3, h4⟩ := hy
  exact ⟨a, b, c, rfl, by simpa using h4, ha, h1, hb, h2, h3, hc⟩

/-- The two waits of a write slot, and the whole of it (40_bitlink.md R112, R124, R128 to R130; log 26). -/
theorem took_write {t : Timing} {b : Bool} {x : Took} (h : x.Ok t (.w b)) :
    ∃ low rec, x.waits = [low, rec] ∧ low + rec ≤ x.total ∧ t.slotW ≤ x.total ∧ x.total ≤ 70000 ∧
      (if b then t.low1 else t.low0) ≤ low ∧ low ≤ (if b then 15000 else 120000) ∧ t.recW ≤ rec := by
  obtain ⟨ws, n⟩ := x
  obtain ⟨hx, hy⟩ := h
  simp only [Took.NoSooner, Event.program, delays, wireWrite, List.filterMap_cons, List.filterMap_nil,
    List.forall₂_cons_left_iff, List.forall₂_nil_left_iff] at hx
  obtain ⟨a, _, ha, ⟨c, _, hc, rfl, rfl⟩, rfl⟩ := hx
  obtain ⟨h1, h2, h3, h4⟩ := hy
  exact ⟨a, c, rfl, by simpa using h2, h3, h4, by cases b <;> exact ha, h1, hc⟩

/-- The three waits of a read slot (40_bitlink.md R114, R124, R131 to R133). -/
theorem took_read {t : Timing} {b : Bool} {x : Took} (h : x.Ok t (.r b)) :
    ∃ low valid rest, x.waits = [low, valid, rest] ∧ x.total = low + (valid + rest) ∧ x.total ≤ 75000 ∧
      t.lowR ≤ low ∧ low ≤ 2000 ∧ t.rdv - t.lowR ≤ valid ∧ low + valid ≤ 30000 ∧ t.slotR - t.rdv ≤ rest := by
  obtain ⟨ws, n⟩ := x
  obtain ⟨hx, hy⟩ := h
  simp only [Took.NoSooner, Event.program, delays, wireRead, List.filterMap_cons, List.filterMap_nil,
    List.forall₂_cons_left_iff, List.forall₂_nil_left_iff, Delay.ns] at hx
  obtain ⟨a, _, ha, ⟨b, _, hb, ⟨c, _, hc, rfl, rfl⟩, rfl⟩, rfl⟩ := hx
  obtain ⟨h1, h2, h3, h4⟩ := hy
  exact ⟨a, b, c, rfl, by simpa using h3, h4, ha, h1, hb, h2, hc⟩

/-- The start of an operation, and an outcome, take no bus time. -/
theorem took_none {t : Timing} {e : Event} {x : Took} (h : x.Ok t e) (he : e.isTransaction = false) :
    x.total = 0 := by
  obtain ⟨-, hy⟩ := h
  cases e with
  | op _ => exact hy
  | oc _ => exact hy
  | rst _ => simp [Event.isTransaction] at he
  | w _ => simp [Event.isTransaction] at he
  | r _ => simp [Event.isTransaction] at he

end Sys2Proof.Machine
end

