-- ==== Sys2Proof/Tests/Slice0.lean ====
section
/-! SUPPORT. Tests: ill-formed terms that WellFormed refuses, words of spec/30_encoding.md and
spec/95_test_vectors.md decoded, single steps with the results 95_test_vectors.md gives, and a witness for the
hypotheses of every statement of Certificates/Slice0/Obligations.lean. -/

namespace Sys2Proof.Tests

open Sys2Proof.Machine

/-! ### Small states -/

/-- Identifier A of 95_test_vectors.md section 0.1. -/
def idA : Identifier := #v[0x28, 0x11, 0x22, 0x33, 0x44, 0x55, 0x66, 0x56]

/-- Identifier B of section 0.1. -/
def idB : Identifier := #v[0x28, 0x11, 0x22, 0x33, 0x44, 0x55, 0xE6, 0xDA]

/-- The invalid identifier A2 of section 0.1. -/
def idA2 : Identifier := #v[0x28, 0x11, 0x22, 0x33, 0x44, 0x55, 0x66, 0xD6]

/-- An empty table entry. -/
def id0 : Identifier := Vector.replicate 8 0

/-- A device at power-up, with its scratchpad. -/
def dev (rom : Identifier) (sp : Half) : Device := { rom := rom, sp := sp, pending := false, conv := sp.setWidth 12, st := .inactive }

/-- The reset state with reference devices on the bus. -/
def withDevices (ds : List Device) (f : LineFault) : State :=
  { State.reset with bus := { population := .reference ds f, script := [], draws := 0, landings := [] } }

/-- The reset state with scripted answers of the free oracle. -/
def withScript (answers : List Bool) : State :=
  { State.reset with bus := { population := .oracle, script := answers.map some, draws := 0, landings := [] } }

/-- Device A is on the bus and in the table. -/
def oneKnown : State := { withDevices [dev idA 0x0191] .noFault with count := 1, table := #v[idA, id0, id0, id0, id0] }

/-- What a field reads as after an instruction. -/
def after {α : Type} (i : Instr) (s : State) (f : State → α) : Option α :=
  match exec i s with
  | .next t => some (f t)
  | .fault _ => none
  | .refused _ => none

/-- What a field reads as after a step. -/
def afterStep {α : Type} (s : State) (f : State → α) : Option α :=
  match step s with
  | .next t => some (f t)
  | .fault _ => none
  | .refused _ => none

/-- A request of the host. -/
def request (w : Word) (data : List Byte) : Request := { word := w, data := data }

/-- A host word as the decoder takes it. -/
def word (w : Word) (data : List Byte) : Packet := (request w data).packet

/-! ### Ill-formed terms -/

theorem test_wellFormed_refuses_256_data_bytes : (Instr.crc8 (List.replicate 256 0)).wellFormed = false := by
  decide +kernel

theorem test_wellFormed_refuses_missing_data : (word 0x00000205 [0x01]).wellFormed = false := by decide

theorem test_wellFormed_refuses_data_of_another_op : (word 0x00000001 [0x01]).wellFormed = false := by decide

/-! ### Decoding: words of 95_test_vectors.md section 2.1, and the bytes of 30_encoding.md R90, bit by bit -/

theorem test_decode_owReset : decode (word 0b00000000000000000000000000000001 []) = .ok .owReset := by decide

theorem test_decode_owWriteBit0 : decode (word 0b00000000000000000000000000000010 []) = .ok (.owWriteBit false) := by
  decide

theorem test_decode_owWriteBit1 : decode (word 0b00000000000000000000000000010010 []) = .ok (.owWriteBit true) := by
  decide

theorem test_decode_owReadBit : decode (word 0b00000000000000000000000000000011 []) = .ok .owReadBit := by decide

theorem test_decode_owWriteByte : decode (word 0b00000000000000001111000000000100 []) = .ok (.owWriteByte 0xF0) := by
  decide

theorem test_decode_crc8 :
    decode (word 0b00000000000000000000011100000101 [0x02, 0x1C, 0xB8, 0x01, 0x00, 0x00, 0x00]) =
      .ok (.crc8 [0x02, 0x1C, 0xB8, 0x01, 0x00, 0x00, 0x00]) := by decide

theorem test_decode_discoverAll : decode (word 0b00000000000000000000000000000110 []) = .ok .discoverAll := by decide

theorem test_decode_sampleAll : decode (word 0b00000000000000000000000000000111 []) = .ok .sampleAll := by decide

theorem test_decode_formatC :
    decode (word 0b00000111110100000000000000001000 []) = .ok (.format .celsius 0x07D0) := by decide

theorem test_decode_formatF :
    decode (word 0b11111111111111110000000000011000 []) = .ok (.format .fahrenheit 0xFFFF) := by decide

theorem test_decode_searchRom : decode (.busCmd 0b11110000) = .ok .searchRom := by decide

theorem test_decode_matchRom : decode (.busCmd 0b01010101) = .ok .matchRom := by decide

theorem test_decode_readScratchpad : decode (.busCmd 0b10111110) = .ok .readScratchpad := by decide

theorem test_decode_convertT : decode (.busCmd 0b01000100) = .ok .convertT := by decide

/-- Reserved bits outrank an unassigned OP and an unused field (words 0x20, 0xE9, 0xFFFFFFFF). -/
theorem test_refused_reserved :
    decode (word 0x00000020 []) = .error .reservedBits ∧ decode (word 0x000000E9 []) = .error .reservedBits ∧
      decode (word 0xFFFFFFFF []) = .error .reservedBits := by decide

/-- Words 0x0, 0x9 and 0xF. -/
theorem test_refused_unassigned :
    decode (word 0x00000000 []) = .error .unassignedOp ∧ decode (word 0x00000009 []) = .error .unassignedOp ∧
      decode (word 0x0000000F []) = .error .unassignedOp := by decide

/-- Words 0x11, 0x102, 0x808, 0x1015 and 0x10006. -/
theorem test_refused_unused :
    decode (word 0x00000011 []) = .error .nonzeroUnusedField ∧
      decode (word 0x00000102 []) = .error .nonzeroUnusedField ∧
      decode (word 0x00000808 []) = .error .nonzeroUnusedField ∧
      decode (word 0x00001015 []) = .error .nonzeroUnusedField ∧
      decode (word 0x00010006 []) = .error .nonzeroUnusedField := by decide

/-- The opcode table's words for a host operation, for CRC8 with its data after the word, and for a bus command. -/
theorem test_decodeTableWord :
    decodeTableWord 32 0x07D00018 = some (.format .fahrenheit 0x07D0) ∧
      decodeTableWord 48 0x800100000205 = some (.crc8 [0x01, 0x80]) ∧ decodeTableWord 8 0xBE = some .readScratchpad ∧
      decodeTableWord 32 0x00000009 = none := by decide

/-! ### BitLink (95_test_vectors.md section 2.3) -/

theorem test_owReset_empty :
    after .owReset (withDevices [] .noFault) (fun t => (t.trace, t.result)) =
      some ([.op .owReset, .rst false], .bit false) := by decide

theorem test_owReset_stuckLow :
    after .owReset (withDevices [] .stuckLow) (fun t => t.result) = some (.bit true) := by decide

theorem test_owReadBit_inactive :
    after .owReadBit (withDevices [dev idA 0x0191] .noFault) (fun t => (t.trace, t.result)) =
      some ([.op .owReadBit, .r true], .bit true) := by decide

theorem test_owReadBit_stuckLow :
    after .owReadBit (withDevices [] .stuckLow) (fun t => t.result) = some (.bit false) := by decide

theorem test_owWriteBit :
    after (.owWriteBit true) (withDevices [] .noFault) (fun t => (t.trace, t.result, t.pin.dir)) =
      some ([.op .owWriteBit, .w true], .noValue, .released) := by decide

theorem test_owWriteByte_55 :
    after (.owWriteByte 0x55) (withDevices [] .noFault) (fun t => (t.trace, t.result)) =
      some ([.op .owWriteByte, .w true, .w false, .w true, .w false, .w true, .w false, .w true, .w false],
        .noValue) := by decide

/-! ### CRC8 (section 2.2) -/

theorem test_crc8_example :
    after (.crc8 [0x02, 0x1C, 0xB8, 0x01, 0x00, 0x00, 0x00]) State.reset (fun t => (t.trace, t.result)) =
      some ([.op .crc8], .byte 0xA2) := by decide +kernel

theorem test_crc8_empty : after (.crc8 []) State.reset (fun t => t.result) = some (.byte 0x00) := by decide

/-! ### DISCOVER_ALL (sections 3.1 and 3.2) -/

theorem test_discoverAll_empty :
    after .discoverAll (withDevices [] .noFault) (fun t => (t.trace, t.result, t.seq)) =
      some ([.op .discoverAll, .rst false, .oc .busAbsentDiscover], .count 0, .idle) := by decide

/-- D-2, pass 1, bus {A, B}: the 1 branch at position 56 finds B; the operation goes on. -/
theorem test_discoverAll_first_pass :
    after .discoverAll (withDevices [dev idA 0x0191, dev idB 0xFE6F] .noFault)
      (fun t => (transactions t.trace, t.count, t.table[0], t.search.lastDiscrepancy, t.seq)) =
      some (201, 1, idB, 56, .busy .discoverAll .loopTest) := by decide +kernel

/-- The state after that pass, as a search that goes on: B was found, and position 56 is the branch to take next. -/
def secondPass : State :=
  { withDevices [dev idA 0x0191, dev idB 0xFE6F] .noFault with
    search := { idBuf := idB, lastDiscrepancy := 56, done := false, marker := 56, p := 64 }
    count := 1, table := #v[idB, id0, id0, id0, id0], seq := .busy .discoverAll .loopTest }

/-- D-2, pass 2: the 0 branch at position 56 finds A, and the operation returns 2. -/
theorem test_discoverAll_second_pass :
    afterStep secondPass (fun t => (transactions t.trace, t.table[1], t.result, t.seq)) =
      some (201, idA, .count 2, .idle) := by decide +kernel

/-- A bus command frame alone: the reset and the 0xF0 byte, then two reads of 1 (section 3.7: NO_RESPONSE). -/
theorem test_searchRom_no_response :
    after .searchRom (withScript [true, true, true]) (fun t => t.trace) =
      some [.rst true, .w false, .w false, .w false, .w false, .w true, .w true, .w true, .w true, .r true, .r true] := by
  decide

theorem test_searchRom_absent : after .searchRom (withDevices [] .noFault) (fun t => t.trace) = some [.rst false] := by
  decide

/-! ### SAMPLE_ALL (sections 4.1 and 4.2) and its frames -/

theorem test_sampleAll_one_device :
    after .sampleAll oneKnown (fun t => (t.samples[0], t.samples[1], transactions t.trace, t.result)) =
      some (0x0191, 0x8000, 178, .noValue) := by decide +kernel

/-- An abort at the re-addressing reset: slot 0 already holds the value just read (43_sampler.md R186). -/
theorem test_sampleAll_abort_at_convert :
    after .sampleAll { oneKnown with bus := { oneKnown.bus with
        script := [none, none, none, none, none, none, none, none, none, none, none, none, none, none, none, none, none,
          some false] } }
      (fun t => (t.samples[0], outcomes t.trace, transactions t.trace)) =
      some (0x0191, [.busAbsentSample 0 .convert], 98) := by decide +kernel

theorem test_matchRom_frame :
    after .matchRom oneKnown (fun t => (transactions t.trace, t.bus.population)) =
      some (73, .reference [{ dev idA 0x0191 with st := .func 0 0 }] .noFault) := by decide +kernel

theorem test_readScratchpad_frame :
    after .readScratchpad oneKnown (fun t => (transactions t.trace, t.samples[0])) = some (97, 0x0191) := by
  decide +kernel

theorem test_convertT_frame :
    after .convertT oneKnown (fun t => (transactions t.trace, t.bus.population)) =
      some (81, .reference [{ dev idA 0x0191 with pending := true }] .noFault) := by decide +kernel

/-! ### FORMAT (section 5) -/

/-- " 257.0" (section 1.3). -/
theorem test_format_fahrenheit :
    after (.format .fahrenheit 0x07D0) State.reset (fun t => t.result) =
      some (.text #v[0x20, 0x32, 0x35, 0x37, 0x2E, 0x30]) := by decide

/-- "- 13.1" in Fahrenheit for 0xFE6F (44_formatter.md R203): both divisions truncate toward zero. -/
theorem test_format_truncates_toward_zero :
    after (.format .fahrenheit 0xFE6F) State.reset (fun t => t.result) =
      some (.text #v[0x2D, 0x20, 0x31, 0x33, 0x2E, 0x31]) := by decide

/-- "-  0.5" (section 1.4). -/
theorem test_format_celsius_negative :
    after (.format .celsius 0xFFF8) State.reset (fun t => t.result) =
      some (.text #v[0x2D, 0x20, 0x20, 0x30, 0x2E, 0x35]) := by decide

/-- "------" and its outcome (section 1.5). -/
theorem test_format_sentinel :
    after (.format .celsius 0x8000) State.reset (fun t => (t.result, outcomes t.trace)) =
      some (.text #v[0x2D, 0x2D, 0x2D, 0x2D, 0x2D, 0x2D], [.sensorAbsentSentinel 0x8000]) := by decide

/-! ### The step and the platform -/

theorem test_step_runs_fetch_word :
    afterStep (State.reset.withFetchWord 32 0x00000105) (fun t => t.result) = some (.byte 0x00) := by decide

/-- A word presented while BUSY is refused (section 2.1, the last row). -/
theorem test_step_busy_refuses :
    afterStep { secondPass with agenda := [.intrude (request 0x00000006 [])] } (fun t => (t.refusals, t.seq)) =
      some ([.busy], .busy .discoverAll .loopTest) := by decide

/-- A word presented during a SAMPLE_ALL is refused too. -/
theorem test_step_busy_refuses_during_sampleAll :
    afterStep { oneKnown with agenda := [.intrude (request 0x00000021 [])], seq := .busy .sampleAll .start }
      (fun t => (t.refusals, t.seq)) = some ([.busy], .busy .sampleAll .start) := by decide

/-- A block reset after 50 transactions of a SAMPLE_ALL (70_reset_and_hazards.md R270). -/
theorem test_step_reset_inside :
    afterStep { oneKnown with pendingReset := some 50, agenda := [.issue (request 0x00000007 [])] }
      (fun t => (transactions t.trace, t.count, t.samples[0], t.seq)) = some (50, 0, 0x8000, .idle) := by
  decide +kernel

/-- A conversion lands (60_exceptions.md R255). -/
theorem test_step_conversion_lands :
    afterStep { withDevices [{ dev idA 0x0550 with pending := true, conv := 0x191 }] .noFault with
        agenda := [.landConversion 0] } (fun t => t.bus.population) =
      some (.reference [dev idA 0x0191] .noFault) := by decide

/-- A conversion lands between reads 7 and 8 of a SAMPLE_ALL, after 89 transactions: byte 0 of the sample is the old
scratchpad's, byte 1 the converted one's (60_exceptions.md R255, R256). -/
theorem test_sampleAll_conversion_lands_inside :
    after .sampleAll { oneKnown with bus :=
        { population := .reference [{ dev idA 0x0550 with pending := true, conv := 0x191 }] .noFault
          script := [], draws := 0, landings := [{ transactions := 89, device := 0 }] } }
      (fun t => (t.samples[0], t.bus.landings)) = some (0x0150, []) := by decide +kernel

/-- A device that the table names twice converts between its two cycles (43_sampler.md R181; 60_exceptions.md R255;
conflict C11). -/
theorem test_sampleAll_converts_between_cycles :
    after .sampleAll { oneKnown with
        count := 2, table := #v[idA, idA, id0, id0, id0]
        bus := { population := .reference [{ dev idA 0x0550 with conv := 0x191 }] .noFault, script := [], draws := 0
                 landings := [{ transactions := 178, device := 0 }] } }
      (fun t => (t.samples[0], t.samples[1])) = some (0x0550, 0x0191) := by decide +kernel

/-- A landing planned while the block is BUSY counts the transactions that follow. -/
theorem test_step_landing_planned_while_busy :
    afterStep { oneKnown with agenda := [.landAfter 89 0], seq := .busy .sampleAll .start }
      (fun t => (t.bus.landings, t.agenda, t.seq)) =
      some ([{ transactions := 89, device := 0 }], [], .busy .sampleAll .start) := by decide

/-! ### Witnesses: for each statement with hypotheses, a state and operands that meet all of them -/

theorem test_witness_DecodeOfEncode : (Instr.crc8 (List.replicate 255 0)).wellFormed = true := by decide +kernel

theorem test_witness_EncodeOfDecode :
    (word 0x00000105 [0x80]).wellFormed = true ∧ decode (word 0x00000105 [0x80]) = .ok (.crc8 [0x80]) := by decide

theorem test_witness_BusCommandBytes :
    (0xCC : Byte) ∉ [0xF0#8, 0x55#8, 0xBE#8, 0x44#8] ∧ decode (request 0x00000007 []).packet = .ok .sampleAll := by
  decide

theorem test_witness_StepRunsDecodedInstruction :
    (∀ m ∈ [Move.issue (request 0x00000001 []), .intrude (request 0x00000001 [])],
      let s := { State.reset with agenda := [m] }
      s.seq = .idle ∧ s.agenda = [m] ∧ m.packet = some (word 0x00000001 []) ∧
        decode (word 0x00000001 []) = .ok .owReset ∧ s.pendingReset = none) ∧
    (Move.frame 0x55).packet = some (.busCmd 0x55) ∧ decode (.busCmd 0x55) = .ok .matchRom ∧
      ∀ q, Move.frame 0x55 ≠ .start q := by
  refine ⟨by decide, by decide, by decide, by simp⟩

/-- A bus command that is placed as the next instruction runs its frame (log 5). -/
theorem test_step_runs_fetch_byte :
    afterStep ((withDevices [] .noFault).withFetchWord 8 0x44) (fun t => (t.trace, t.seq, t.result)) =
      some ([.rst false], .idle, .noValue) := by decide

/-- Each of the three ways to present a word while IDLE. -/
theorem test_witness_RefusedWord_idle :
    ∀ m ∈ [Move.issue (request 0x00000021 []), .start (request 0x00000021 []), .intrude (request 0x00000021 [])],
      let s := { State.reset with agenda := [m] }
      s.agenda = [m] ∧ s.seq = .idle ∧ m.packet = some (word 0x00000021 []) ∧
        decode (word 0x00000021 []) = .error .reservedBits := by decide

theorem test_witness_RefusedWord_busy :
    let s := { secondPass with agenda := [.intrude (request 0x00000001 [])] }
    s.agenda = [.intrude (request 0x00000001 [])] ∧ s.seq ≠ .idle := by decide

theorem test_witness_StepWithoutRequest_idle : State.reset.seq = .idle ∧ State.reset.agenda = [] := by decide

theorem test_witness_StepWithoutRequest_busy :
    ∀ m ∈ [Move.issue (request 0x00000007 []), .start (request 0x00000007 []), .population .oracle, .frame 0x55],
      let s := { secondPass with agenda := [m] }
      s.seq = .busy .discoverAll .loopTest ∧ s.agenda = [m] ∧ m.waits = true ∧ s.pendingReset = none := by
  decide

/-- A pending conversion of the second device, landing while IDLE and while BUSY, now and planned. -/
theorem test_witness_StepWithoutRequest_devices :
    ∀ m ∈ [Move.landConversion 1, .landAfter 0 1, .landAfter 89 1], ∀ q ∈ [Seq.idle, .busy .sampleAll .start],
      let ds := [dev idB 0xFE6F, { dev idA 0x0550 with pending := true, conv := 0x191 }]
      let s := { withDevices ds .noFault with agenda := [m], seq := q }
      s.agenda = [m] ∧ s.bus.population = .reference ds .noFault ∧
        ds[1]? = some { dev idA 0x0550 with pending := true, conv := 0x191 } := by decide

theorem test_witness_StepWithoutRequest_population :
    let s := { State.reset with agenda := [.population (.reference [] .openLine)] }
    s.seq = .idle ∧ s.agenda = [.population (.reference [] .openLine)] := by decide

theorem test_witness_OperationFromPositionZero :
    let s := { oneKnown with agenda := [.start (request 0x00000007 [])] }
    s.seq = .idle ∧ s.agenda = [.start (request 0x00000007 [])] ∧ decode (word 0x00000007 []) = .ok .sampleAll ∧
      hostOpOf .sampleAll = some .sampleAll ∧ s.pendingReset = none := by decide

theorem test_witness_BlockResetEffect :
    { secondPass with agenda := [.blockReset] }.agenda = [.blockReset] := by decide

/-- A reset planned while IDLE and while BUSY. -/
theorem test_witness_ResetLandsAfterTransactions_planned :
    ∀ q ∈ [Seq.idle, .busy .sampleAll .start],
      let s := { oneKnown with agenda := [.resetAfter 50], seq := q }
      s.agenda = [.resetAfter 50] ∧ s.seq = q := by decide

/-- A reset due one transaction after the end of an operation. -/
theorem test_witness_ResetLandsAfterTransactions_later :
    ∃ s s₀ t : State, s.pendingReset = some 179 ∧ Performs s s₀ t ∧ transactions (t.trace.drop s.trace.length) < 179 :=
  ⟨{ oneKnown with pendingReset := some 179, agenda := [.issue (request 0x00000007 [])] },
    { oneKnown with pendingReset := some 179 },
    runSampleAll (startOp .sampleAll .sampleAll { oneKnown with pendingReset := some 179 }),
    rfl, .inl ⟨_, [], _, .sampleAll, rfl, rfl, rfl, by simp, rfl, rfl, rfl⟩, by decide +kernel⟩

/-- A reset due after the last transaction of an operation that is taken up while IDLE. -/
theorem test_witness_ResetLandsAfterTransactions_idle :
    ∃ s s₀ t : State, s.pendingReset = some 178 ∧ Performs s s₀ t ∧ 178 ≤ transactions (t.trace.drop s.trace.length) :=
  ⟨{ oneKnown with pendingReset := some 178, agenda := [.issue (request 0x00000007 [])] },
    { oneKnown with pendingReset := some 178 },
    runSampleAll (startOp .sampleAll .sampleAll { oneKnown with pendingReset := some 178 }),
    rfl, .inl ⟨_, [], _, .sampleAll, rfl, rfl, rfl, by simp, rfl, rfl, rfl⟩, by decide +kernel⟩

/-- A reset due at once, as an operation stops at position 0. -/
theorem test_witness_ResetLandsAfterTransactions_start :
    ∃ s s₀ t : State, s.pendingReset = some 0 ∧ Performs s s₀ t ∧ 0 ≤ transactions (t.trace.drop s.trace.length) :=
  ⟨{ oneKnown with pendingReset := some 0, agenda := [.start (request 0x00000007 [])] },
    { oneKnown with pendingReset := some 0 },
    startOp .sampleAll .sampleAll { oneKnown with pendingReset := some 0 },
    rfl, .inr (.inl ⟨[], _, .sampleAll, .sampleAll, rfl, rfl, rfl, rfl, rfl, rfl⟩), by decide⟩

/-- A reset due inside a later pass of a DISCOVER_ALL, while the host waits, and inside an operation that goes on from
position 0. -/
theorem test_witness_ResetLandsAfterTransactions_busy :
    ∀ q ∈ [(Instr.discoverAll, Pos.loopTest), (.discoverAll, .start), (.sampleAll, .start)],
      ∃ s s₀ t : State, s.seq = .busy q.1 q.2 ∧ s.pendingReset = some 10 ∧ Performs s s₀ t ∧
        10 ≤ transactions (t.trace.drop s.trace.length) := by
  intro q hq
  refine ⟨{ secondPass with pendingReset := some 10, seq := .busy q.1 q.2, agenda := [.issue (request 0x00000007 [])] },
    _, _, rfl, rfl, .inr (.inr ⟨q.1, q.2, rfl, .inr ⟨_, [], rfl, rfl⟩, rfl, rfl⟩), ?_⟩
  revert q
  decide +kernel

/-- A step that reaches the bus by transactions, and one that does by a device's move. -/
theorem test_witness_BusReceivesExactlyTheTrace :
    ∃ t u, step secondPass = .next t ∧ step { secondPass with agenda := [.landConversion 0] } = .next u :=
  ⟨_, _, rfl, rfl⟩

/-- The invariant at a state in which a search goes on. -/
theorem test_witness_Inv_busy : Inv secondPass where
  released := rfl
  valid := by decide +kernel
  busy := by
    intro i pos h
    cases h
    exact .inr ⟨rfl, rfl, by decide, fun _ => ⟨by decide, rfl, by decide⟩⟩

theorem test_witness_StepKeepsInv : ∃ s t, Inv s ∧ step s = .next t :=
  ⟨secondPass, landReset secondPass (goOn .discoverAll .loopTest secondPass), test_witness_Inv_busy, rfl⟩

theorem test_witness_TraceAndRefusalsOnlyGrow :
    ∃ t, step { secondPass with agenda := [.intrude (request 0x00000006 [])] } = .next t := ⟨_, rfl⟩

/-- The second state differs from the first in every part that no host can see. -/
theorem test_witness_HostCannotTellSearchState :
    ∃ s t s' : State, Inv s ∧ Alike s t ∧ s.agenda.all Move.byAgent = true ∧ step s = .next s' ∧ s ≠ t :=
  ⟨secondPass,
    { secondPass with
      search := { secondPass.search with marker := 3, p := 9 }
      table := #v[idB, idA, idA, idA, idA], index := 4, pin := { dir := .released, level := true } },
    landReset secondPass (goOn .discoverAll .loopTest secondPass), test_witness_Inv_busy,
    { count := rfl, table := by decide, samples := rfl, dir := rfl, seq := rfl, result := rfl, trace := rfl,
      refusals := rfl, bus := rfl, agenda := rfl, pendingReset := rfl, params := rfl, free := rfl,
      search := fun _ _ => ⟨rfl, rfl, fun _ => rfl⟩ },
    rfl, rfl, by decide⟩

theorem test_witness_PinOnlyDrivenLow : wireRead ∈ [wireReset, wireWrite true, wireWrite false, wireRead] := by decide

theorem test_witness_CrcAlgebra : ([0x80, 0x01] : List Byte).length = ([0x00, 0xFF] : List Byte).length := rfl

theorem test_witness_ValidIdsNeverOneBitApart : validId idA = true ∧ validId idA2 = false := by decide +kernel

/-- The three cases of a discrepancy, at the position of the last branch and on both sides of it. -/
theorem test_witness_DirectionRule :
    let r : Search := { secondPass.search with lastDiscrepancy := 56 }
    (55 : Fin 65) < r.lastDiscrepancy ∧ idBit r.idBuf 55 = true ∧ (54 : Fin 65) < r.lastDiscrepancy ∧
      (1 : Fin 65) < r.lastDiscrepancy ∧ idBit r.idBuf 1 = false ∧ (56 : Fin 65) = r.lastDiscrepancy ∧
      r.lastDiscrepancy < (57 : Fin 65) := by decide +kernel

theorem test_witness_SearchPositionEffect :
    1 ≤ (64 : Fin 65).val ∧
      (withScript [true, true]).bus.readBit = true ∧ (withScript [true, true]).bus.afterRead.readBit = true ∧
      ¬((withScript [true, false]).bus.readBit = true ∧ (withScript [true, false]).bus.afterRead.readBit = true) := by
  decide

theorem test_witness_CandidateValidation :
    secondPass.count.val < 5 ∧ validId secondPass.search.idBuf = true ∧
      validId { secondPass.search with idBuf := idA2 }.idBuf = false := by decide +kernel

theorem test_witness_DiscoverOnAbsentBus : (withDevices [] .noFault).bus.presenceBit = false := by decide

/-- The three outcomes of the loop test, at the boundary of the capacity. -/
theorem test_witness_CapacityRule :
    let s := { secondPass with count := 5 }
    (s.count = 5 ∧ s.search.done = false) ∧ { s.search with done := true }.done = true ∧
      (secondPass.search.done = false ∧ { secondPass with count := 4 }.count ≠ 5) := by decide

/-- Device C is on the bus with A and B, and the table has one free entry. -/
def almostFull : State :=
  { secondPass with
    count := 4
    bus := { secondPass.bus with
      population := .reference [dev idA 0, dev idB 0, dev #v[0x28, 0x01, 0, 0, 0, 0, 0, 0x29] 0] .noFault } }

/-- The second pass on a bus that every device left. -/
def secondPassAbsent : State :=
  { secondPass with bus := { secondPass.bus with population := .reference [] .noFault } }

/-- Turns from the loop test that end the operation: with the table full and the search unfinished, finished, and on an
absent bus. -/
theorem test_witness_CapacityRule_turn :
    loopCond almostFull = true ∧ (discoverTurn almostFull).seq = .idle ∧
      outcomes (discoverTurn almostFull).trace = [.capacityExceeded 5] ∧
      loopCond secondPass = true ∧ (discoverTurn secondPass).seq = .idle ∧
      loopCond secondPassAbsent = true ∧ (discoverTurn secondPassAbsent).seq = .idle ∧
      outcomes (discoverTurn secondPassAbsent).trace = [.busAbsentDiscover] := by
  decide +kernel

theorem test_witness_OneDeviceDiscovered :
    let s := withDevices [dev idA 0x0191] .noFault
    s.bus.population = .reference [dev idA 0x0191] .noFault ∧ s.bus.script = [] ∧
      validId (dev idA 0x0191).rom = true := by decide +kernel

theorem test_witness_TwoDevicesDiscovered :
    let s := withDevices [dev idB 0xFE6F, dev idA 0x0191] .noFault
    s.bus.population = .reference [dev idB 0xFE6F, dev idA 0x0191] .noFault ∧ s.bus.script = [] ∧
      validId (dev idB 0xFE6F).rom = true ∧ validId (dev idA 0x0191).rom = true ∧
      searchKey (dev idA 0x0191).rom < searchKey (dev idB 0xFE6F).rom ∧ s.agenda = [] ∧ s.pendingReset = none := by
  decide +kernel

/-- The six identifiers of vector D-6. -/
def sixDevices : List Device :=
  [dev idA 0, dev idB 0, dev #v[0x28, 0x01, 0x00, 0x00, 0x00, 0x00, 0x00, 0x29] 0,
    dev #v[0x10, 0xAB, 0xCD, 0xEF, 0x01, 0x02, 0x03, 0x9A] 0, dev #v[0x28, 0xFF, 0x4B, 0x8A, 0x61, 0x16, 0x04, 0x3A] 0,
    dev #v[0x22, 0x5A, 0x5A, 0x5A, 0x5A, 0x5A, 0x5A, 0xBB] 0]

theorem test_witness_StableBusDiscovery :
    let s := withDevices sixDevices .noFault
    s.bus.population = .reference sixDevices .noFault ∧ s.bus.script = [] ∧ sixDevices ≠ [] ∧
      (∀ d ∈ sixDevices, validId d.rom = true) ∧ sixDevices.Pairwise (fun d e => d.rom ≠ e.rom) ∧
      s.agenda = [] ∧ s.pendingReset = none := by decide +kernel

theorem test_witness_StuckLineHangsDiscovery :
    let s := withDevices [dev idA 0x0191] .stuckLow
    s.bus.population = .reference [dev idA 0x0191] .stuckLow ∧ s.bus.script = [] ∧ s.agenda = [] ∧
      s.pendingReset = none := by decide

/-- Both cases of the presence bit, for the frames. -/
theorem test_witness_frames :
    oneKnown.bus.presenceBit = true ∧ (withDevices [] .noFault).bus.presenceBit = false := by decide

theorem test_witness_SampleAllFrame : State.reset.count = 0 ∧ oneKnown.count.val ≤ 1 := by decide

/-- Two devices of which the table names one, and a device with a conversion that is to land between two reads. -/
theorem test_witness_SampleOfPresentDevice :
    (let ds := [dev idB 0xFE6F, dev idA 0x0191]
      let s := { withDevices ds .noFault with count := 2, table := #v[idA, id0, id0, id0, id0] }
      s.bus.population = .reference ds .noFault ∧ s.bus.script = [] ∧ s.bus.landings = [] ∧ ds ≠ [] ∧
        ds.Pairwise (fun d e => d.rom ≠ e.rom) ∧ (dev idA 0x0191).rom = tableEntry s 0 ∧ s.count ≠ 0) ∧
    (let d := { dev idA 0x0550 with pending := true, conv := 0x191 }
      let s := { oneKnown with bus := { population := .reference [d] .noFault, script := [], draws := 0
                                        landings := [{ transactions := 89, device := 0 }] } }
      s.bus.population = .reference [d] .noFault ∧ s.bus.script = [] ∧ s.count = 1 ∧ tableEntry s 0 = d.rom ∧
        ∃ l ∈ s.bus.landings, l.device = 0 ∧ l.transactions ≤ 81 + 8) := by decide +kernel

/-- Slot 1 of a bus on which only the device of slot 0 is left. -/
theorem test_witness_VanishedDeviceReadsAllOnes :
    let s := { oneKnown with count := 2, table := #v[idA, idB, id0, id0, id0] }
    s.bus.population = .reference [dev idA 0x0191] .noFault ∧ s.bus.script = [] ∧ [dev idA 0x0191] ≠ [] ∧
      1 < s.count.val ∧ (∀ d ∈ [dev idA 0x0191], d.rom ≠ tableEntry s 1) := by decide

theorem test_witness_MatchSelectsOnlyItsDevice :
    { dev idA 0x0191 with st := .matching 1 }.st = .matching 1 := by decide

theorem test_witness_FormatCelsius : (0xF800 : Half) ≠ State.reset.params.sentinel := by decide

/-- The bounds of Fahrenheit that still fit: 8604 and -9173 (44_formatter.md R207). -/
theorem test_witness_FormatFahrenheit :
    (0x219C ≠ State.reset.params.sentinel ∧ -9174 < (0x219C : Half).toInt ∧ (0x219C : Half).toInt < 8605) ∧
      (0xDC2B ≠ State.reset.params.sentinel ∧ -9174 < (0xDC2B : Half).toInt ∧ (0xDC2B : Half).toInt < 8605) := by
  decide

/-- The first values that overflow: 8605 (raw 0x219D) and -9174 (raw 0xDC2A) (44_formatter.md R207). -/
theorem test_witness_FormatOverflow :
    (0x219D ≠ State.reset.params.sentinel ∧ 1000 ≤ (fahrenheit 0x219D).whole) ∧
      (0xDC2A ≠ State.reset.params.sentinel ∧ 1000 ≤ (fahrenheit 0xDC2A).whole) ∧
      (fahrenheit 0x219C).whole = 999 ∧ (fahrenheit 0xDC2B).whole = 999 := by decide

theorem test_witness_RenderedTextShape : (render .space (convert .celsius 0x07D0)).isSome = true := by decide

/-- The ends of the 12-bit domain (44_formatter.md R208). -/
theorem test_witness_TextAccuracy :
    (isReading 0x07FF = true ∧ (0x07FF : Half) ≠ 0xF800) ∧ (isReading 0xF801 = true ∧ (0xF801 : Half) ≠ 0xF800) := by
  decide

/-- A timing inside the contract of 40_bitlink.md. -/
def someTiming : Timing :=
  { rstl := 480000, rstlMax := 960000, pdwait := 70000, presenceFrom := 60000, presenceTo := 75000
    rstTotal := 800000, low1 := 6000, low0 := 60000, slotW := 70000, recW := 10000, lowR := 2000, rdv := 15000
    slotR := 75000 }

theorem test_witness_BusTimes :
    someTiming.Ok ∧ resets (writeEvents (byteBits 0xF0)) = 0 ∧ writes (writeEvents (byteBits 0xF0)) = 8 ∧
      reads (writeEvents (byteBits 0xF0)) = 0 ∧ resets [.r true, .r false, .w true] = 0 ∧
      writes [.r true, .r false, .w true] = 1 ∧ reads [.r true, .r false, .w true] = 2 ∧
      reads (List.replicate 16 (.r true)) = 16 := by decide

theorem test_witness_BusTimes_pass :
    let es := Event.rst true :: (List.replicate 72 (.w true) ++ List.replicate 128 (.r true))
    resets es = 1 ∧ writes es = 72 ∧ reads es = 128 := by decide +kernel

theorem test_witness_BusTimes_cycle :
    let es := List.replicate 2 (Event.rst true) ++ (List.replicate 160 (.w true) ++ List.replicate 16 (.r true))
    resets es = 2 ∧ writes es = 160 ∧ reads es = 16 := by decide +kernel

theorem test_witness_WireProgramsFitTheirSlots : someTiming.Ok := by decide

/-- A reset, a write slot and two read slots in which delays return late, and differently (40_bitlink.md R124). -/
theorem test_witness_Took :
    List.Forall₂ (Took.Ok { someTiming with slotW := 66000, recW := 5000, slotR := 70000 })
      [.rst true, .w false, .r true, .r false]
      [{ waits := [500000, 71000, 260000], total := 831000 }, { waits := [61000, 6000], total := 67000 },
        { waits := [2000, 13000, 55000], total := 70000 }, { waits := [2000, 14000, 59000], total := 75000 }] := by
  simp [Took.Ok, Took.NoSooner, Took.WithinMaxima, Event.program, delays, wireReset, wireWrite, wireRead, Delay.ns,
    someTiming]

end Sys2Proof.Tests
end

section
/-! SUPPORT. The operations as the sequencer holds them, and what every one of them performs. -/

namespace Sys2Proof.Machine

theorem dropMove_of_agenda {s : State} {m : Move} {rest : List Move} (h : s.agenda = m :: rest) :
    dropMove s = { s with agenda := rest } := by
  simp [dropMove, h]

/-- A host operation is its start and then its procedure from position 0 (10_state.md R30, R37). -/
theorem exec_hostOp {i : Instr} {o : HostOp} (h : hostOpOf i = some o) (s : State) :
    exec i s = .next (goOn i .start (startOp o i s)) := by
  cases i <;> cases h <;> rfl

/-- The frame of a pass is transactions on the bus and writes of the search registers, and `lastDiscrepancy` and
`done` are not among these (30_encoding.md R92). -/
theorem searchFrame_frame (s : State) : ∃ es r, (searchFrame s).2 = onBus es { s with search := r } ∧
    r.lastDiscrepancy = s.search.lastDiscrepancy ∧ r.done = s.search.done := by
  cases h : s.bus.presenceBit
  · exact ⟨_, s.search, congrArg Prod.snd (searchFrame_absent s h), rfl, rfl⟩
  · rw [searchFrame_present s h, searchStart_eq]
    obtain ⟨ts, tail, r, he, hl, hd, -⟩ := searchPositions_eq 64 (le_refl _)
      (onBus (.rst s.bus.presenceBit :: writeEvents (byteBits Config.cmdSearchRom))
        { s with search := { s.search with marker := 0 } }) rfl
    exact ⟨_, r, he.trans (onBus_append (.rst s.bus.presenceBit :: writeEvents (byteBits Config.cmdSearchRom)) _
      { s with search := r }), hl, hd⟩

@[simp] theorem searchFrame_count (s : State) : (searchFrame s).2.count = s.count := by
  obtain ⟨es, r, h, -⟩ := searchFrame_frame s
  rw [h]
  rfl

@[simp] theorem searchFrame_seq (s : State) : (searchFrame s).2.seq = s.seq := by
  obtain ⟨es, r, h, -⟩ := searchFrame_frame s
  rw [h]
  rfl

@[simp] theorem addressDevice_seq (i : Nat) (s : State) : (addressDevice i s).2.seq = s.seq := by
  rw [addressDevice_eq]
  rfl

@[simp] theorem readFrame_seq (i : Nat) (s : State) : (readFrame i s).2.seq = s.seq := by
  rw [readFrame_eq]
  cases s.bus.presenceBit <;> rfl

@[simp] theorem convertFrame_seq (i : Nat) (s : State) : (convertFrame i s).2.seq = s.seq := by
  rw [convertFrame_eq]
  rfl

/-- A bus command is its frame: it leaves the sequencer as it was, and the procedure the sequencer would hold only
returns after it (log 5, log 21). -/
theorem exec_busCmd {i : Instr} (h : hostOpOf i = none) (s : State) :
    ∃ t, exec i s = .next t ∧ t.seq = s.seq ∧ goOn i .start s = returnOp .noValue t := by
  cases i with
  | searchRom => exact ⟨_, rfl, searchFrame_seq s, rfl⟩
  | matchRom => exact ⟨_, rfl, addressDevice_seq _ s, rfl⟩
  | readScratchpad => exact ⟨_, rfl, readFrame_seq _ s, rfl⟩
  | convertT => exact ⟨_, rfl, convertFrame_seq _ s, rfl⟩
  | owReset | owWriteBit | owReadBit | owWriteByte | crc8 | discoverAll | sampleAll | format => cases h

/-- While IDLE, a packet presented otherwise than by the move `start` is taken up (60_exceptions.md R240). -/
theorem step_accept {s : State} {m : Move} {p : Packet} {rest : List Move} (hi : s.seq = .idle)
    (ha : s.agenda = m :: rest) (hp : m.packet = some p) (hn : ∀ q, m ≠ .start q) :
    step s = accept p { s with agenda := rest } := by
  rw [← dropMove_of_agenda ha, step, stepAgents, hi]
  simp only [idleStep, ha]
  cases m with
  | issue q | intrude q | frame b => cases hp; rfl
  | start q => exact absurd rfl (hn q)
  | blockReset | resetAfter | landConversion | landAfter | population => cases hp

theorem landReset_of_none {s : State} (h : s.pendingReset = none) (t : State) : landReset s t = t := by
  simp [landReset, h]

/-- With no block reset pending, what a step performs stays as it is. -/
theorem landIn_of_none {s : State} (h : s.pendingReset = none) (x : Host.Outcome State Fault Refusal) :
    landIn s x = x := by
  cases x with
  | next t => exact congrArg _ (landReset_of_none h t)
  | fault f => rfl
  | refused r => rfl

/-! ### What an operation performs -/

theorem Did.returnOp {es : List Event} {s t : State} (h : Did es s t) (v : Result) : Did es s (returnOp v t) := by
  simpa using h.trans (did_returnOp v t)

/-- Whatever the block goes on with, it appends events, and the bus receives exactly their transactions. -/
theorem did_goOn (i : Instr) (pos : Pos) (s : State) : ∃ es, Did es s (goOn i pos s) := by
  cases pos with
  | loopTest => exact did_discoverTurn s
  | start =>
    cases i with
    | owReset => exact ⟨_, (did_onBus [.rst s.bus.presenceBit] s).returnOp _⟩
    | owWriteBit b => exact ⟨_, (did_onBus [.w b] s).returnOp _⟩
    | owReadBit => exact ⟨_, (did_onBus [.r s.bus.readBit] s).returnOp _⟩
    | owWriteByte v => exact ⟨_, (did_writeByte v s).returnOp _⟩
    | crc8 data => exact ⟨_, did_returnOp _ s⟩
    | discoverAll => exact did_runDiscoverAll s
    | sampleAll => exact (did_sampleFrom 0 s.count.val s).imp fun _ h => h.returnOp _
    | format unit raw => exact did_runFormat unit raw s
    | searchRom => exact (did_searchFrame s).imp fun _ h => h.returnOp _
    | matchRom => exact (did_addressDevice s.index.val s).imp fun _ h => h.returnOp _
    | readScratchpad => exact (did_readFrame s.index.val s).imp fun _ h => h.returnOp _
    | convertT => exact (did_convertFrame s.index.val s).imp fun _ h => h.returnOp _

theorem did_exec {i : Instr} {s t : State} (h : exec i s = .next t) : ∃ es, Did es s t := by
  cases ho : hostOpOf i with
  | some o =>
    rw [exec_hostOp ho] at h
    cases h
    obtain ⟨es, g⟩ := did_goOn i .start (startOp o i s)
    exact ⟨_, (did_startOp o i s).trans g⟩
  | none =>
    obtain ⟨u, hu, -, hg⟩ := exec_busCmd ho s
    cases hu.symm.trans h
    obtain ⟨es, g⟩ := did_goOn i .start s
    rw [hg] at g
    exact ⟨es, g.trace, g.bus, g.agenda, g.refusals, g.pendingReset, g.params⟩

/-! ### What the observation of a run keeps -/

/-- The observation of s is the beginning of that of t (10_state.md R37; 60_exceptions.md R236), and the parameters
are the same (log 10). -/
def Extends (s t : State) : Prop :=
  s.trace <+: t.trace ∧ s.refusals <+: t.refusals ∧ t.params = s.params

theorem Did.observed {es : List Event} {s t : State} (h : Did es s t) : Extends s t :=
  ⟨⟨es, h.trace.symm⟩, ⟨[], by simp [h.refusals]⟩, h.params⟩

/-- A block reset that lands in an operation cuts its events short, and takes back none that stood there before
(log 13, log 25). -/
theorem Did.observed_landReset {es : List Event} {s t : State} (h : Did es s t) : Extends s (landReset s t) := by
  rcases landReset_cases s t with ⟨-, e⟩ | ⟨k, -, -, e⟩ | ⟨k, -, -, e⟩ <;> rw [e]
  · exact h.observed
  · exact ⟨List.prefix_append .., List.prefix_refl _, rfl⟩
  · exact h.observed

end Sys2Proof.Machine
end

section
/-! CERTIFICATES. The step, the reset state, and what every step keeps of the observation. -/

namespace Sys2Proof.Machine

/-- Settles O16: an operation and a frame only append events, and so does what is left of one that a block reset cuts
short; every other step writes neither the trace nor the parameters. -/
theorem traceAndRefusalsOnlyGrow : Obligations.TraceAndRefusalsOnlyGrow := by
  intro s t h
  have kept : Extends s s := (did_refl s).observed
  rcases step_cases h with ⟨-, -, rfl⟩ | ⟨m, rest, p, i, u, -, -, -, -, -, hu, rfl⟩ | ⟨rest, q, i, o, -, -, -, -, rfl⟩ |
    ⟨m, rest, p, r, -, -, rfl, -⟩ | ⟨rest, -, rfl⟩ | ⟨k, rest, -, rfl⟩ | ⟨d, rest, -, rfl⟩ | ⟨k, d, rest, -, rfl⟩ |
    ⟨p, rest, -, -, rfl⟩ | ⟨i, pos, -, rfl, -⟩
  · exact kept
  · obtain ⟨es, g⟩ := did_exec hu
    exact g.observed_landReset
  · exact (did_startOp o i { s with agenda := rest }).observed_landReset
  · exact ⟨List.prefix_refl _, List.prefix_append .., rfl⟩
  · exact kept
  · exact kept
  · exact kept
  · exact kept
  · exact kept
  · obtain ⟨es, g⟩ := did_goOn i pos s
    exact g.observed_landReset

/-- Settles O6: the packet is taken up, and `accept` runs what it decodes to. -/
theorem stepRunsDecodedInstruction : Obligations.StepRunsDecodedInstruction := by
  intro s m p rest i hi ha hp hn hd
  have run : step s = landIn { s with agenda := rest } (exec i { s with agenda := rest }) := by
    rw [step_accept hi ha hp hn, accept, hd]
  exact ⟨run, fun hr => run.trans (landIn_of_none (s := { s with agenda := rest }) hr _)⟩

/-- Settles O9: the first step is the operation's start, the second its procedure from position 0, and these two make
up `exec`. -/
theorem operationFromPositionZero : Obligations.OperationFromPositionZero := by
  intro s q i o hi ha hd ho hr
  have first : step s = .next (startOp o i { s with agenda := [] }) := by
    rw [step, stepAgents, hi]
    simp only [idleStep, ha, dropMove_of_agenda ha, acceptStart, hd, ho]
    exact landIn_of_none (s := { s with agenda := [] }) hr _
  have second : step (startOp o i { s with agenda := [] }) =
      .next (goOn i .start (startOp o i { s with agenda := [] })) :=
    landIn_of_none (s := startOp o i { s with agenda := [] }) hr (.next _)
  exact ⟨_, first, rfl, rfl, rfl, second.trans (exec_hostOp ho _).symm⟩

/-- Settles O12: the fields of the reset state. -/
theorem resetStateValues : Obligations.ResetStateValues :=
  ⟨rfl, rfl, rfl, rfl, rfl, by decide⟩

end Sys2Proof.Machine
end

section
/-! SUPPORT. The search pass: what its frame writes, and the marker it leaves (42_enumerator.md R159, R163). -/

namespace Sys2Proof.Machine

/-! ### The marker -/

/-- At a position the marker stays, or the position is recorded, and then 1 is its direction (42_enumerator.md
R159). -/
theorem chooseDirection_marker (a b : Bool) (p : Fin 65) (r : Search) :
    (chooseDirection a b p r).2 = r.marker ∨ chooseDirection a b p r = (true, p) := by
  unfold chooseDirection
  split_ifs with _ _ hd
  · exact .inl rfl
  · exact .inr (by rw [hd])
  · exact .inl rfl
  · exact .inl rfl
  · exact .inr rfl

/-- Before position p, the marker is 0 or an earlier position, at which `idBuf` took the 1 branch. -/
def MarkerTaken (p : Nat) (r : Search) : Prop :=
  r.marker ≠ 0 → r.marker.val < p ∧ idBit r.idBuf r.marker.val = true

theorem markerTaken_clear (p : Nat) (r : Search) : MarkerTaken p { r with marker := 0 } := fun h => absurd rfl h

/-- A position that is taken keeps the marker of an earlier one, or is recorded with the 1 it takes. -/
theorem MarkerTaken.position {a b : Bool} {p : Fin 65} {r : Search} (h : MarkerTaken p.val r)
    (hp : 1 ≤ p.val) (hab : (a && b) = false) : MarkerTaken (p.val + 1) (positionSearch a b p r) := by
  simp only [positionSearch, hab, Bool.false_eq_true, if_false, MarkerTaken]
  rcases chooseDirection_marker a b p r with hm | hm
  · rw [hm]
    intro h0
    obtain ⟨hlt, hbit⟩ := h h0
    have hpos : r.marker.val ≠ 0 := fun e => h0 (Fin.ext e)
    rw [idBit_setIdBit _ _ _ _ ⟨hp, by omega⟩ ⟨by omega, by omega⟩, if_neg (by omega)]
    exact ⟨by omega, hbit⟩
  · simp only [hm]
    intro _
    rw [idBit_setIdBit _ _ _ _ ⟨hp, by omega⟩ ⟨hp, by omega⟩, if_pos rfl]
    exact ⟨by omega, rfl⟩

/-- A pass that takes its last n positions leaves the marker at a position whose 1 branch it took. -/
theorem markerTaken_searchPositions (n : Nat) (hn : n ≤ 64) (s : State) (h : MarkerTaken (65 - n) s.search)
    (hc : (searchPositions n s).1 = .complete) : MarkerTaken 65 (searchPositions n s).2.search := by
  induction n generalizing s with
  | zero => exact h
  | succ n ih =>
    have hp := positionIndex n (by omega)
    rw [searchPositions] at hc ⊢
    simp only [searchPosition_eq] at hc ⊢
    generalize Fin.ofNat 65 (Config.idBits - n) = p at hp hc ⊢
    cases hab : s.bus.readBit && s.bus.afterRead.readBit
    · simp only [hab, Bool.not_false, if_true] at hc ⊢
      refine ih (by omega) _ ?_ hc
      rw [show 65 - n = p.val + 1 by omega]
      exact MarkerTaken.position (by rwa [hp, ← Nat.add_sub_add_right 64 1 n]) (by omega) hab
    · simp [hab] at hc

theorem markerTaken_searchFrame (s : State) (hc : (searchFrame s).1 = .complete) :
    MarkerTaken 65 (searchFrame s).2.search := by
  cases h : s.bus.presenceBit
  · simp [searchFrame_absent s h] at hc
  · rw [searchFrame_present s h] at hc ⊢
    refine markerTaken_searchPositions 64 (le_refl _) _ ?_ hc
    rw [searchStart_eq]
    exact markerTaken_clear 1 s.search

/-! ### The table -/

theorem loopCond_count {s : State} (h : loopCond s = true) : s.count.val < 5 := by
  rw [loopCond, Bool.and_eq_true] at h
  exact of_decide_eq_true h.2

theorem appendId_count_val (id : Identifier) (s : State) (h : s.count.val < 5) :
    (appendId id s).count.val = s.count.val + 1 := by
  rw [appendId_count, Fin.val_add_one_of_lt (Fin.lt_def.mpr h)]

/-- Appending an identifier writes the entry at `count` and no other (42_enumerator.md R163). -/
theorem tableEntry_appendId (id : Identifier) (s : State) (h : s.count.val < 5) (i : Nat) :
    tableEntry (appendId id s) i = if i = s.count.val then id else tableEntry s i := by
  unfold tableEntry
  rw [appendId_table, Vector.getElem?_setIfInBounds]
  by_cases hi : i = s.count.val
  · simp [hi, h]
  · simp [hi, Ne.symm hi]

end Sys2Proof.Machine
end

section
/-! SUPPORT. The invariant of the machine: what each operation keeps of it. -/

namespace Sys2Proof.Machine

/-- The part of the invariant that holds between any two transactions of an operation too, whatever `seq` is. -/
structure Sound (s : State) : Prop where
  released : s.pin.dir = .released
  valid : ∀ i < s.count.val, validId (tableEntry s i) = true

theorem Inv.sound {s : State} (h : Inv s) : Sound s := ⟨h.released, h.valid⟩

/-- An IDLE block asks nothing more of the invariant. -/
theorem Sound.inv_of_idle {s : State} (h : Sound s) (hq : s.seq = .idle) : Inv s :=
  ⟨h.released, h.valid, fun i pos hb => by rw [hq] at hb; cases hb⟩


theorem Sound.withSearch {s : State} (h : Sound s) (r : Search) : Sound { s with search := r } :=
  ⟨h.released, h.valid⟩

/-- Every transaction ends with the pin released (10_state.md R29). -/
theorem sound_onBus {s : State} (h : Sound s) (es : List Event) : Sound (onBus es s) := ⟨rfl, h.valid⟩

theorem sound_raise {s : State} (h : Sound s) (o : OutcomeEvent) : Sound (raise o s) := ⟨h.released, h.valid⟩

theorem inv_returnOp {s : State} (h : Sound s) (v : Result) : Inv (returnOp v s) :=
  Sound.inv_of_idle ⟨h.released, h.valid⟩ rfl

theorem inv_startOp {s : State} (h : Inv s) {o : HostOp} {i : Instr} (ho : hostOpOf i = some o) :
    Inv (startOp o i s) where
  released := h.released
  valid := h.valid
  busy := by
    intro j pos hb
    cases hb
    exact .inl ⟨rfl, by rw [ho]; rfl⟩

theorem inv_blockReset (s : State) : Inv (blockReset s) :=
  Sound.inv_of_idle ⟨rfl, fun i hi => absurd hi (Nat.not_lt_zero i)⟩ rfl

/-- A block reset that lands gives the reset values, and one that does not only comes nearer. -/
theorem inv_landReset {t : State} (h : Inv t) (s : State) : Inv (landReset s t) := by
  rcases landReset_cases s t with ⟨-, e⟩ | ⟨k, -, -, e⟩ | ⟨k, -, -, e⟩ <;> rw [e]
  · exact h
  · exact inv_blockReset _
  · exact ⟨h.released, h.valid, h.busy⟩

/-! ### The frames and cycles of the sampler -/

theorem sound_addressDevice {s : State} (h : Sound s) (i : Nat) : Sound (addressDevice i s).2 := by
  rw [addressDevice_eq]
  exact sound_onBus h _

theorem sound_readFrame {s : State} (h : Sound s) (i : Nat) : Sound (readFrame i s).2 := by
  rw [readFrame_eq]
  cases s.bus.presenceBit
  · exact sound_onBus h _
  · exact ⟨rfl, h.valid⟩

theorem sound_convertFrame {s : State} (h : Sound s) (i : Nat) : Sound (convertFrame i s).2 := by
  rw [convertFrame_eq]
  exact sound_onBus h _

theorem sound_sampleDevice {s : State} (h : Sound s) (i : Nat) : Sound (sampleDevice i s).2 := by
  have aimed : Sound (atIndex i s) := ⟨h.released, h.valid⟩
  have read := sound_readFrame aimed i
  have converted := sound_convertFrame read i
  unfold sampleDevice
  simp only
  split
  · dsimp only
    split
    · exact converted
    · exact sound_raise converted _
  · exact sound_raise read _

theorem sound_sampleFrom {s : State} (h : Sound s) (i n : Nat) : Sound (sampleFrom i n s) := by
  induction n generalizing i s with
  | zero => exact h
  | succ n ih =>
    rw [sampleFrom]
    split
    · exact ih (sound_sampleDevice h i) (i + 1)
    · exact sound_sampleDevice h i

/-! ### The passes of DISCOVER_ALL -/

theorem sound_searchFrame {s : State} (h : Sound s) : Sound (searchFrame s).2 := by
  obtain ⟨es, r, he, -⟩ := searchFrame_frame s
  rw [he]
  exact sound_onBus (h.withSearch r) es

theorem inv_discoverReturn {s : State} (h : Sound s) : Inv (discoverReturn s) := by
  unfold discoverReturn
  split
  · exact inv_returnOp (sound_raise h _) _
  · exact inv_returnOp h _

theorem inv_discoverLoop {s : State} (h : Sound s) (hc : SearchCoherent s) : Inv (discoverLoop s) := by
  unfold discoverLoop
  split
  · next hl =>
    refine ⟨h.released, h.valid, fun i pos hb => ?_⟩
    cases hb
    exact .inr ⟨rfl, rfl, hl, hc⟩
  · exact inv_discoverReturn h

/-- A valid candidate is appended: every entry below the new `count` passed its CRC (42_enumerator.md R163). -/
theorem sound_passSucceeded {s : State} (h : Sound s) (hv : validId s.search.idBuf = true) (hc : s.count.val < 5) :
    Sound (passSucceeded s) where
  released := h.released
  valid := by
    intro i hi
    have below : i < s.count.val + 1 := by rwa [← appendId_count_val s.search.idBuf s hc]
    refine (congrArg validId (tableEntry_appendId s.search.idBuf s hc i)).trans ?_
    split
    · exact hv
    · exact h.valid i (by omega)

/-- The identifier appended last stands in `idBuf`, with a 1 where the marker is (42_enumerator.md R168). -/
theorem searchCoherent_passSucceeded {s : State} (hm : MarkerTaken 65 s.search) (hc : s.count.val < 5) :
    SearchCoherent (passSucceeded s) := by
  intro hd
  have count : (passSucceeded s).count.val = s.count.val + 1 := appendId_count_val s.search.idBuf s hc
  have entry : tableEntry (passSucceeded s) s.count.val = s.search.idBuf :=
    (tableEntry_appendId s.search.idBuf s hc s.count.val).trans (if_pos rfl)
  rw [count, Nat.add_sub_cancel, entry]
  exact ⟨Nat.succ_pos _, rfl, (hm hd).2⟩

theorem searchCoherent_passFailed (s : State) : SearchCoherent (passFailed s) := fun h => absurd rfl h

/-- The end of a pass that took all positions: the table stays valid and the search coherent, whether the candidate is
appended or discarded (42_enumerator.md R161). -/
theorem sound_validate {s : State} (h : Sound s) (hm : MarkerTaken 65 s.search) (hc : s.count.val < 5) :
    Sound (validate s) ∧ SearchCoherent (validate s) := by
  unfold validate
  split
  · next hv => exact ⟨sound_passSucceeded h hv hc, searchCoherent_passSucceeded hm hc⟩
  · exact ⟨⟨h.released, h.valid⟩, searchCoherent_passFailed _⟩

theorem inv_discoverPass {s : State} (h : Sound s) (hc : s.count.val < 5) : Inv (discoverPass s) := by
  have frame := sound_searchFrame h
  unfold discoverPass
  simp only
  split
  · exact inv_discoverReturn (sound_raise frame _)
  · exact inv_discoverLoop ⟨frame.released, frame.valid⟩ (searchCoherent_passFailed _)
  · next he =>
    obtain ⟨sound, coherent⟩ :=
      sound_validate frame (markerTaken_searchFrame s he) (by rwa [searchFrame_count])
    exact inv_discoverLoop sound coherent

theorem inv_discoverTurn {s : State} (h : Sound s) : Inv (discoverTurn s) := by
  unfold discoverTurn
  split
  · next hl => exact inv_discoverPass h (loopCond_count hl)
  · exact inv_discoverReturn h

theorem inv_runFormat {s : State} (h : Sound s) (unit : TempUnit) (raw : Half) : Inv (runFormat unit raw s) := by
  have drawn : Sound { s with free := s.free + 1 } := ⟨h.released, h.valid⟩
  unfold runFormat
  split
  · exact inv_returnOp (sound_raise h _) _
  · split
    · exact inv_returnOp h _
    · exact inv_returnOp drawn _

/-! ### The step -/

/-- Whatever the block goes on with, it comes to a state that keeps the invariant. -/
theorem inv_goOn {s : State} (h : Sound s) (i : Instr) (pos : Pos) : Inv (goOn i pos s) := by
  cases pos with
  | loopTest => exact inv_discoverTurn h
  | start =>
    cases i with
    | owReset => exact inv_returnOp (sound_onBus h [.rst s.bus.presenceBit]) _
    | owWriteBit b => exact inv_returnOp (sound_onBus h [.w b]) _
    | owReadBit => exact inv_returnOp (sound_onBus h [.r s.bus.readBit]) _
    | owWriteByte v => exact inv_returnOp (writeByte_eq v s ▸ sound_onBus h _) _
    | crc8 data => exact inv_returnOp h _
    | discoverAll =>
      have emptied : Sound (discoverInit s) := ⟨h.released, fun i hi => absurd hi (Nat.not_lt_zero i)⟩
      exact inv_discoverTurn emptied
    | sampleAll => exact inv_returnOp (sound_sampleFrom h 0 s.count.val) _
    | format unit raw => exact inv_runFormat h unit raw
    | searchRom => exact inv_returnOp (sound_searchFrame h) _
    | matchRom => exact inv_returnOp (sound_addressDevice h s.index.val) _
    | readScratchpad => exact inv_returnOp (sound_readFrame h s.index.val) _
    | convertT => exact inv_returnOp (sound_convertFrame h s.index.val) _

/-- An instruction taken up while IDLE keeps the invariant; a bus command leaves the block IDLE. -/
theorem inv_exec {i : Instr} {s t : State} (h : Inv s) (hi : s.seq = .idle) (hx : exec i s = .next t) : Inv t := by
  cases ho : hostOpOf i with
  | some o =>
    rw [exec_hostOp ho] at hx
    cases hx
    exact inv_goOn (inv_startOp h ho).sound i .start
  | none =>
    obtain ⟨u, hu, hq, hg⟩ := exec_busCmd ho s
    cases hu.symm.trans hx
    have returned : Inv (returnOp .noValue t) := hg ▸ inv_goOn h.sound i .start
    exact Sound.inv_of_idle ⟨returned.released, returned.valid⟩ (hq.trans hi)

end Sys2Proof.Machine
end

section
/-! CERTIFICATES. The invariant. -/

namespace Sys2Proof.Machine

/-- Settles O14: the reset state is what a block reset gives. -/
theorem invAtReset : Obligations.InvAtReset := inv_blockReset State.reset

/-- Settles O15: an operation comes to a state that keeps the invariant, its start holds the block at position 0, a
block reset gives the reset values, and the other moves write no field of which the invariant speaks. -/
theorem stepKeepsInv : Obligations.StepKeepsInv := by
  intro s t inv h
  have taken : ∀ rest, Inv { s with agenda := rest } := fun _ => ⟨inv.released, inv.valid, inv.busy⟩
  rcases step_cases h with ⟨-, -, rfl⟩ | ⟨m, rest, p, i, u, hi, -, -, -, -, hu, rfl⟩ |
    ⟨rest, q, i, o, -, -, -, ho, rfl⟩ | ⟨m, rest, p, r, -, -, rfl, -⟩ | ⟨rest, -, rfl⟩ | ⟨k, rest, -, rfl⟩ |
    ⟨d, rest, -, rfl⟩ | ⟨k, d, rest, -, rfl⟩ | ⟨p, rest, -, -, rfl⟩ | ⟨i, pos, -, rfl, -⟩
  · exact inv
  · exact inv_landReset (inv_exec (taken rest) hi hu) _
  · exact inv_landReset (inv_startOp (taken rest) ho) _
  · exact ⟨inv.released, inv.valid, inv.busy⟩
  · exact inv_blockReset _
  · exact ⟨inv.released, inv.valid, inv.busy⟩
  · exact ⟨inv.released, inv.valid, inv.busy⟩
  · exact ⟨inv.released, inv.valid, inv.busy⟩
  · exact ⟨inv.released, inv.valid, inv.busy⟩
  · exact inv_landReset (inv_goOn inv.sound i pos) _

end Sys2Proof.Machine
end

section
/-! SUPPORT. States no host can tell apart: what each operation does to two of them (10_state.md R33). -/

namespace Sys2Proof.Machine

/-! ### The search registers of two runs -/

/-- What two searches share between passes: `idBuf` may differ where no branch is pending (42_enumerator.md R168). -/
structure SearchAlike (r q : Search) : Prop where
  lastDiscrepancy : r.lastDiscrepancy = q.lastDiscrepancy
  done : r.done = q.done
  idBuf : r.lastDiscrepancy ≠ 0 → r.idBuf = q.idBuf

/-- What two searches share within a pass, before position p: the marker too, and the bits taken so far. -/
structure SearchAlikeAt (p : Nat) (r q : Search) : Prop extends SearchAlike r q where
  marker : r.marker = q.marker
  taken : ∀ k, 1 ≤ k → k < p → idBit r.idBuf k = idBit q.idBuf k

/-- The direction rule reads `idBuf` only before `lastDiscrepancy`, where a branch is pending (42_enumerator.md
R159). -/
theorem chooseDirection_alike {r q : Search} {k : Nat} (h : SearchAlikeAt k r q) (a b : Bool) (p : Fin 65) :
    chooseDirection a b p r = chooseDirection a b p q := by
  unfold chooseDirection
  rw [← h.marker, ← h.lastDiscrepancy]
  by_cases hp : p < r.lastDiscrepancy
  · rw [h.idBuf (Fin.ne_zero_of_lt hp)]
  · simp only [if_neg hp]

theorem positionEvents_alike {r q : Search} {k : Nat} (h : SearchAlikeAt k r q) (a b : Bool) (p : Fin 65) :
    positionEvents a b p r = positionEvents a b p q := by
  unfold positionEvents
  rw [chooseDirection_alike h]

/-- A position that is taken writes the same bit in both, so what they share reaches one position further. -/
theorem SearchAlikeAt.position {a b : Bool} {p : Fin 65} {r q : Search} (h : SearchAlikeAt p.val r q)
    (hp : 1 ≤ p.val) (hab : (a && b) = false) :
    SearchAlikeAt (p.val + 1) (positionSearch a b p r) (positionSearch a b p q) := by
  simp only [positionSearch, hab, Bool.false_eq_true, if_false, chooseDirection_alike h]
  refine ⟨⟨h.lastDiscrepancy, h.done, fun hd => by rw [h.idBuf hd]⟩, rfl, fun k h1 h2 => ?_⟩
  rw [idBit_setIdBit _ _ _ _ ⟨hp, by omega⟩ ⟨h1, by omega⟩, idBit_setIdBit _ _ _ _ ⟨hp, by omega⟩ ⟨h1, by omega⟩]
  split
  · rfl
  · exact h.taken k h1 (by omega)

/-- After two reads of 1, which write nothing, the searches share what they shared before the pass. -/
theorem SearchAlike.positionNotTaken {r q : Search} (h : SearchAlike r q) (p : Fin 65) :
    SearchAlike (positionSearch true true p r) (positionSearch true true p q) :=
  ⟨h.lastDiscrepancy, h.done, h.idBuf⟩

/-- When all 64 positions are taken, the two identifiers are the same. -/
theorem SearchAlikeAt.idBuf_eq {r q : Search} (h : SearchAlikeAt 65 r q) : r.idBuf = q.idBuf :=
  ext_idBit _ _ fun k h1 h2 => h.taken k h1 (by omega)

/-! ### The named operations -/

theorem Alike.searchAlike {s t : State} (h : Alike s t) {i : Instr} (hq : s.seq = .busy i .loopTest) :
    SearchAlike s.search t.search := by
  obtain ⟨hl, hd, hb⟩ := h.search i hq
  exact ⟨hl, hd, hb⟩

theorem Alike.withSearch {s t : State} (h : Alike s t) {r q : Search} (hr : SearchAlike r q) :
    Alike { s with search := r } { t with search := q } :=
  { h with search := fun _ _ => ⟨hr.lastDiscrepancy, hr.done, hr.idBuf⟩ }

theorem alike_onBus {s t : State} (h : Alike s t) (es : List Event) : Alike (onBus es s) (onBus es t) :=
  { h with
    dir := rfl
    trace := congrArg (· ++ es) h.trace
    bus := congrArg (Bus.replay · es) h.bus }

theorem alike_raise {s t : State} (h : Alike s t) (o : OutcomeEvent) : Alike (raise o s) (raise o t) :=
  { h with trace := congrArg (· ++ [Event.oc o]) h.trace }

theorem alike_startOp {s t : State} (h : Alike s t) (o : HostOp) (i : Instr) :
    Alike (startOp o i s) (startOp o i t) :=
  { h with
    seq := rfl
    trace := congrArg (· ++ [Event.op o]) h.trace
    search := fun _ hb => nomatch hb }

theorem alike_returnOp {s t : State} (h : Alike s t) (v : Result) : Alike (returnOp v s) (returnOp v t) :=
  { h with
    seq := rfl
    result := rfl
    search := fun _ hb => nomatch hb }

theorem alike_setSample {s t : State} (h : Alike s t) (i : Nat) (v : Half) :
    Alike (setSample i v s) (setSample i v t) :=
  { h with samples := congrArg (Vector.setIfInBounds · i v) h.samples }

theorem alike_atIndex {s t : State} (h : Alike s t) (i : Nat) : Alike (atIndex i s) (atIndex i t) := { h with }

theorem alike_refuseWord {s t : State} (h : Alike s t) (r : RefusalReason) :
    Alike (refuseWord r s) (refuseWord r t) :=
  { h with refusals := congrArg (· ++ [r]) h.refusals }

/-- A block reset leaves no field of the block in which two states could differ. -/
theorem alike_blockReset {s t : State} (h : Alike s t) : Alike (blockReset s) (blockReset t) :=
  { h with
    count := rfl
    table := fun _ _ => rfl
    samples := by rw [blockReset_samples, blockReset_samples, h.params]
    dir := rfl
    seq := rfl
    result := rfl
    pendingReset := rfl
    search := fun _ hb => nomatch hb }

theorem alike_planReset {s t : State} (h : Alike s t) (k : Nat) : Alike (planReset k s) (planReset k t) :=
  { h with pendingReset := rfl }

theorem alike_landConversion {s t : State} (h : Alike s t) (i : Nat) :
    Alike (landConversion i s) (landConversion i t) :=
  { h with bus := by rw [landConversion_bus, landConversion_bus, h.bus] }

theorem alike_planLanding {s t : State} (h : Alike s t) (k i : Nat) :
    Alike (planLanding k i s) (planLanding k i t) :=
  { h with bus := congrArg (Bus.planLanding k i) h.bus }

theorem alike_setPopulation {s t : State} (h : Alike s t) (p : Population) :
    Alike (setPopulation p s) (setPopulation p t) :=
  { h with bus := by rw [setPopulation_bus, setPopulation_bus, h.bus] }

theorem alike_dropMove {s t : State} (h : Alike s t) : Alike (dropMove s) (dropMove t) :=
  { h with agenda := congrArg List.tail h.agenda }

theorem alike_cutShort {s t u v : State} (h : Alike s t) (g : Alike u v) (k : Nat) :
    Alike (cutShort k s u) (cutShort k t v) := by
  unfold cutShort
  rw [h.trace, g.trace, h.bus, g.free]
  exact alike_blockReset { h with trace := rfl, bus := rfl, free := rfl }

/-- A pending block reset lands at the same transaction in both (log 13). -/
theorem alike_landReset {s t u v : State} (h : Alike s t) (g : Alike u v) :
    Alike (landReset s u) (landReset t v) := by
  have performed : transactions (v.trace.drop t.trace.length) = transactions (u.trace.drop s.trace.length) := by
    rw [h.trace, g.trace]
  unfold landReset
  rw [← h.pendingReset, performed]
  cases s.pendingReset with
  | none => exact g
  | some k =>
    dsimp only
    split
    · exact alike_cutShort h g k
    · exact { g with pendingReset := rfl }

/-! ### The frames and cycles of the sampler -/

theorem alike_readFrame {s t : State} (h : Alike s t) {i : Nat} (hi : i < s.count.val) :
    (readFrame i s).1 = (readFrame i t).1 ∧ Alike (readFrame i s).2 (readFrame i t).2 := by
  rw [readFrame_eq, readFrame_eq, ← h.bus, ← h.table i hi]
  refine ⟨rfl, ?_⟩
  cases s.bus.presenceBit
  · exact alike_onBus h _
  · exact alike_setSample (alike_onBus h _) i _

theorem alike_convertFrame {s t : State} (h : Alike s t) {i : Nat} (hi : i < s.count.val) :
    (convertFrame i s).1 = (convertFrame i t).1 ∧ Alike (convertFrame i s).2 (convertFrame i t).2 := by
  rw [convertFrame_eq, convertFrame_eq, ← h.bus, ← h.table i hi]
  exact ⟨rfl, alike_onBus h _⟩

@[simp] theorem readFrame_count (i : Nat) (s : State) : (readFrame i s).2.count = s.count := by
  rw [readFrame_eq]
  cases s.bus.presenceBit <;> rfl

@[simp] theorem convertFrame_count (i : Nat) (s : State) : (convertFrame i s).2.count = s.count := by
  rw [convertFrame_eq]
  rfl

@[simp] theorem sampleDevice_count (i : Nat) (s : State) : (sampleDevice i s).2.count = s.count := by
  unfold sampleDevice
  dsimp only
  split_ifs <;> simp

theorem alike_sampleDevice {s t : State} (h : Alike s t) {i : Nat} (hi : i < s.count.val) :
    (sampleDevice i s).1 = (sampleDevice i t).1 ∧ Alike (sampleDevice i s).2 (sampleDevice i t).2 := by
  obtain ⟨readEq, read⟩ := alike_readFrame (alike_atIndex h i) hi
  obtain ⟨convertEq, converted⟩ := alike_convertFrame read (i := i) (by rwa [readFrame_count])
  unfold sampleDevice
  simp only
  rw [← readEq, ← convertEq]
  split
  · refine ⟨rfl, ?_⟩
    dsimp only
    split
    · exact converted
    · exact alike_raise converted _
  · exact ⟨rfl, alike_raise read _⟩

/-- The cycles address entries below `count` only, and these are the same in both (10_state.md R26). -/
theorem alike_sampleFrom {s t : State} (h : Alike s t) (i n : Nat) (hn : i + n ≤ s.count.val) :
    Alike (sampleFrom i n s) (sampleFrom i n t) := by
  induction n generalizing i s t with
  | zero => exact h
  | succ n ih =>
    obtain ⟨answer, sampled⟩ := alike_sampleDevice h (i := i) (by omega)
    rw [sampleFrom, sampleFrom, ← answer]
    split
    · exact ih sampled (i + 1) (by rw [sampleDevice_count]; omega)
    · exact sampled

/-! ### The passes of DISCOVER_ALL -/

/-- What two runs of a pass's frame share at its end: how it ended, all that Alike asks for, and, where all
positions were taken, the candidate and the marker. -/
structure FrameAlike (x y : SearchEnd × State) : Prop where
  ending : x.1 = y.1
  state : Alike x.2 y.2
  search : SearchAlike x.2.search y.2.search
  complete : x.1 = .complete → SearchAlikeAt 65 x.2.search y.2.search

theorem alike_searchPositions (n : Nat) (hn : n ≤ 64) {s t : State} (h : Alike s t)
    (hs : SearchAlikeAt (65 - n) s.search t.search) : FrameAlike (searchPositions n s) (searchPositions n t) := by
  induction n generalizing s t with
  | zero => exact ⟨rfl, h, hs.toSearchAlike, fun _ => hs⟩
  | succ n ih =>
    have hp := positionIndex n (by omega)
    rw [searchPositions, searchPositions]
    simp only [searchPosition_eq]
    generalize Fin.ofNat 65 (Config.idBits - n) = p at hp ⊢
    have first : t.bus.readBit = s.bus.readBit := by rw [h.bus]
    have second : t.bus.afterRead.readBit = s.bus.afterRead.readBit := by rw [h.bus]
    rw [first, second, ← positionEvents_alike hs]
    cases hab : s.bus.readBit && s.bus.afterRead.readBit
    · simp only [Bool.not_false, if_true]
      have before : SearchAlikeAt p.val s.search t.search := by rwa [hp, ← Nat.add_sub_add_right 64 1 n]
      have after := before.position (by omega) hab
      refine ih (by omega) (alike_onBus (h.withSearch after.toSearchAlike) _) ?_
      rwa [show 65 - n = p.val + 1 by omega]
    · simp only [Bool.not_true, Bool.false_eq_true, if_false]
      obtain ⟨ha, hb⟩ := Bool.and_eq_true_iff.mp hab
      rw [ha, hb]
      have after := hs.toSearchAlike.positionNotTaken p
      exact ⟨rfl, alike_onBus (h.withSearch after) _, after, nofun⟩

theorem alike_searchFrame {s t : State} (h : Alike s t) (hs : SearchAlike s.search t.search) :
    FrameAlike (searchFrame s) (searchFrame t) := by
  cases hp : s.bus.presenceBit
  · rw [searchFrame_absent s hp, searchFrame_absent t (by rwa [← h.bus])]
    exact ⟨rfl, alike_onBus h _, hs, nofun⟩
  · have hp' : t.bus.presenceBit = true := by rwa [← h.bus]
    rw [searchFrame_present s hp, searchFrame_present t hp', searchStart_eq, searchStart_eq, hp, hp']
    have cleared : SearchAlikeAt 1 { s.search with marker := 0 } { t.search with marker := 0 } :=
      ⟨⟨hs.lastDiscrepancy, hs.done, hs.idBuf⟩, rfl, fun k h1 h2 => by omega⟩
    exact alike_searchPositions 64 (le_refl _) (alike_onBus (h.withSearch cleared.toSearchAlike) _) cleared

theorem alike_discoverReturn {s t : State} (h : Alike s t) (hs : SearchAlike s.search t.search) :
    Alike (discoverReturn s) (discoverReturn t) := by
  have same : capacityExceeded s = capacityExceeded t := by rw [capacityExceeded, capacityExceeded, hs.done, h.count]
  unfold discoverReturn
  rw [same, h.count]
  split
  · exact alike_returnOp (alike_raise h _) _
  · exact alike_returnOp h _

theorem loopCond_alike {s t : State} (h : Alike s t) (hs : SearchAlike s.search t.search) :
    loopCond s = loopCond t := by
  rw [loopCond, loopCond, hs.done, h.count]

theorem alike_discoverLoop {s t : State} (h : Alike s t) (hs : SearchAlike s.search t.search) :
    Alike (discoverLoop s) (discoverLoop t) := by
  unfold discoverLoop
  rw [← loopCond_alike h hs]
  split
  · exact { h with seq := rfl, search := fun _ _ => ⟨hs.lastDiscrepancy, hs.done, hs.idBuf⟩ }
  · exact alike_discoverReturn h hs

theorem alike_appendId {s t : State} (h : Alike s t) {x y : Identifier} (hxy : x = y) (hc : s.count.val < 5) :
    Alike (appendId x s) (appendId y t) :=
  { h with
    count := congrArg (· + 1) h.count
    table := by
      intro i hi
      rw [appendId_count_val x s hc] at hi
      rw [tableEntry_appendId x s hc, tableEntry_appendId y t (h.count ▸ hc), ← h.count]
      split
      · exact hxy
      · exact h.table i (by omega) }

theorem SearchAlike.failed {r q : Search} (h : SearchAlike r q) :
    SearchAlike { r with lastDiscrepancy := 0 } { q with lastDiscrepancy := 0 } :=
  ⟨rfl, h.done, fun h0 => absurd rfl h0⟩

/-- The end of a pass that took all positions: the candidates are the same, and so is what becomes of them. -/
theorem alike_validate {s t : State} (h : Alike s t) (hs : SearchAlikeAt 65 s.search t.search)
    (hc : s.count.val < 5) :
    Alike (validate s) (validate t) ∧ SearchAlike (validate s).search (validate t).search := by
  unfold validate
  rw [← hs.idBuf_eq]
  split
  · have registers : SearchAlike (passSucceeded s).search (passSucceeded t).search :=
      ⟨hs.marker, by simp only [passSucceeded_search, hs.done, hs.marker], fun _ => hs.idBuf_eq⟩
    exact ⟨(alike_appendId h hs.idBuf_eq hc).withSearch registers, registers⟩
  · exact ⟨(alike_raise h _).withSearch hs.toSearchAlike.failed, hs.toSearchAlike.failed⟩

theorem alike_discoverPass {s t : State} (h : Alike s t) (hs : SearchAlike s.search t.search)
    (hc : s.count.val < 5) : Alike (discoverPass s) (discoverPass t) := by
  obtain ⟨ending, state, search, complete⟩ := alike_searchFrame h hs
  unfold discoverPass
  simp only
  rw [← ending]
  split
  · exact alike_discoverReturn (alike_raise state _) search
  · exact alike_discoverLoop ((alike_raise state _).withSearch search.failed) search.failed
  · next he =>
    obtain ⟨validated, registers⟩ := alike_validate state (complete he) (by rwa [searchFrame_count])
    exact alike_discoverLoop validated registers

theorem alike_discoverTurn {s t : State} (h : Alike s t) (hs : SearchAlike s.search t.search) :
    Alike (discoverTurn s) (discoverTurn t) := by
  unfold discoverTurn
  rw [← loopCond_alike h hs]
  split
  · next hl => exact alike_discoverPass h hs (loopCond_count hl)
  · exact alike_discoverReturn h hs

/-! ### The step -/

theorem alike_runFormat {s t : State} (h : Alike s t) (unit : TempUnit) (raw : Half) :
    Alike (runFormat unit raw s) (runFormat unit raw t) := by
  have sentinel : t.params.sentinel = s.params.sentinel := by rw [h.params]
  have pad : t.params.pad = s.params.pad := by rw [h.params]
  have text : overflowText t = overflowText s := by rw [overflowText, overflowText, h.free]
  have drawn : Alike { s with free := s.free + 1 } { t with free := t.free + 1 } :=
    { h with free := congrArg (· + 1) h.free }
  unfold runFormat
  rw [sentinel, pad, text]
  split
  · exact alike_returnOp (alike_raise h _) _
  · split
    · exact alike_returnOp h _
    · exact alike_returnOp drawn _

/-- A host operation goes on alike from position 0. -/
theorem alike_goOn_start {s t : State} (h : Alike s t) {i : Instr} (hi : (hostOpOf i).isSome = true) :
    Alike (goOn i .start s) (goOn i .start t) := by
  cases i with
  | owReset =>
    simp only [goOn, runOwReset, busReset_eq, h.bus]
    exact alike_returnOp (alike_onBus h _) _
  | owWriteBit b => exact alike_returnOp (alike_onBus h [.w b]) _
  | owReadBit =>
    simp only [goOn, runOwReadBit, busRead_eq, h.bus]
    exact alike_returnOp (alike_onBus h _) _
  | owWriteByte v =>
    simp only [goOn, runOwWriteByte, writeByte_eq]
    exact alike_returnOp (alike_onBus h _) _
  | crc8 data => exact alike_returnOp h _
  | discoverAll =>
    have reset : SearchAlike (discoverInit s).search (discoverInit t).search := ⟨rfl, rfl, fun h0 => absurd rfl h0⟩
    have emptied : Alike (discoverInit s) (discoverInit t) :=
      { h.withSearch reset with count := rfl, table := fun i hi => absurd hi (Nat.not_lt_zero i) }
    exact alike_discoverTurn emptied reset
  | sampleAll =>
    simp only [goOn, runSampleAll, ← h.count]
    exact alike_returnOp (alike_sampleFrom h 0 s.count.val (by omega)) _
  | format unit raw => exact alike_runFormat h unit raw
  | searchRom | matchRom | readScratchpad | convertT => cases hi

/-- The step goes to a next state from both, and these are again alike. -/
def NextAlike (x y : Host.Outcome State Fault Refusal) : Prop :=
  ∃ s t, x = .next s ∧ y = .next t ∧ Alike s t

theorem nextAlike {s t : State} (h : Alike s t) : NextAlike (.next s) (.next t) := ⟨s, t, rfl, rfl, h⟩

/-- A request word decodes the same for both, to a host operation or to a refusal (30_encoding.md R101). -/
theorem alike_accept {s t : State} (h : Alike s t) (q : Request) :
    NextAlike (accept q.packet s) (accept q.packet t) := by
  unfold accept
  cases hd : decode q.packet with
  | error r => exact nextAlike (alike_refuseWord h r)
  | ok i =>
    obtain ⟨o, ho⟩ := decode_request hd
    simp only [exec_hostOp ho]
    exact nextAlike (alike_landReset h (alike_goOn_start (alike_startOp h o i) (by rw [ho]; rfl)))

theorem alike_acceptStart {s t : State} (h : Alike s t) (q : Request) :
    NextAlike (acceptStart q s) (acceptStart q t) := by
  unfold acceptStart
  cases hd : decode q.packet with
  | error r => exact nextAlike (alike_refuseWord h r)
  | ok i =>
    obtain ⟨o, ho⟩ := decode_request hd
    simp only [ho]
    exact nextAlike (alike_landReset h (alike_startOp h o i))

theorem alike_idleStep {s t : State} (h : Alike s t) (ha : s.agenda.all Move.byAgent = true) :
    NextAlike (idleStep s) (idleStep t) := by
  have rest := alike_dropMove h
  unfold idleStep
  rw [← h.agenda]
  cases hm : s.agenda with
  | nil => exact nextAlike h
  | cons m ms =>
    cases m with
    | issue q | intrude q => exact alike_accept rest q
    | start q => exact alike_acceptStart rest q
    | frame b => simp [hm, Move.byAgent] at ha
    | blockReset => exact nextAlike (alike_blockReset rest)
    | resetAfter k => exact nextAlike (alike_planReset rest k)
    | landConversion i => exact nextAlike (alike_landConversion rest i)
    | landAfter k i => exact nextAlike (alike_planLanding rest k i)
    | population p => exact nextAlike (alike_setPopulation rest p)

/-- The operation the block is BUSY with goes on alike: by the invariant it is a host operation at position 0, or a
DISCOVER_ALL at its loop test. -/
theorem alike_proceed {s t : State} (inv : Inv s) (h : Alike s t) {i : Instr} {pos : Pos}
    (hq : s.seq = .busy i pos) : NextAlike (proceed i pos s) (proceed i pos t) := by
  refine nextAlike (alike_landReset h ?_)
  rcases inv.busy i pos hq with ⟨rfl, hi⟩ | ⟨rfl, -⟩
  · exact alike_goOn_start h hi
  · exact alike_discoverTurn h (h.searchAlike hq)

theorem alike_busyStep {s t : State} (inv : Inv s) (h : Alike s t) {i : Instr} {pos : Pos}
    (hq : s.seq = .busy i pos) : NextAlike (busyStep i pos s) (busyStep i pos t) := by
  have rest := alike_dropMove h
  unfold busyStep
  rw [← h.agenda]
  cases s.agenda with
  | nil => exact alike_proceed inv h hq
  | cons m ms =>
    cases m with
    | issue | start | frame | population => exact alike_proceed inv h hq
    | intrude q => exact nextAlike (alike_refuseWord rest .busy)
    | blockReset => exact nextAlike (alike_blockReset rest)
    | resetAfter k => exact nextAlike (alike_planReset rest k)
    | landConversion d => exact nextAlike (alike_landConversion rest d)
    | landAfter k d => exact nextAlike (alike_planLanding rest k d)

theorem alike_step {s t : State} (inv : Inv s) (h : Alike s t) (ha : s.agenda.all Move.byAgent = true) :
    NextAlike (step s) (step t) := by
  unfold step stepAgents
  rw [← h.seq]
  cases hq : s.seq with
  | idle => exact alike_idleStep h ha
  | busy i pos => exact alike_busyStep inv h hq

/-! ### The view -/

/-- The host reads the entries below `count` and no others (10_state.md R26; 60_exceptions.md R240). -/
theorem hostView_alike {s t : State} (h : Alike s t) : hostView s = hostView t := by
  have ids : s.table.toList.take s.count.val = t.table.toList.take s.count.val := by
    apply List.ext_getElem (by simp)
    intro i hi _
    have bounds : i < s.count.val ∧ i < 5 := by simpa using hi
    simpa [tableEntry, bounds.2] using h.table i bounds.1
  unfold hostView
  rw [← h.seq, ids, h.count, h.samples, h.result]

end Sys2Proof.Machine
end

section
/-! CERTIFICATES. What the host can tell apart. -/

namespace Sys2Proof.Machine

/-- Settles O18: each step keeps two states alike, and alike states look the same to the host. -/
theorem hostCannotTellSearchState : Obligations.HostCannotTellSearchState := by
  intro s t s' inv h ha hs
  obtain ⟨u, t', hu, ht, alike⟩ := alike_step inv h ha
  cases hu.symm.trans hs
  exact ⟨t', ht, alike, hostView_alike alike⟩

end Sys2Proof.Machine
end

section
/-! CERTIFICATES. What reaches the bus (20_memory.md). -/

namespace Sys2Proof.Machine

/-- From s to t the trace only grew, and the transactions that were appended are all that reached the bus. -/
def ReachedByTrace (s t : State) : Prop :=
  ∃ es, t.trace = s.trace ++ es ∧ t.bus = s.bus.replay es

theorem reachedByTrace_of_unchanged {s t : State} (ht : t.trace = s.trace) (hb : t.bus = s.bus) :
    ReachedByTrace s t :=
  ⟨[], by rw [ht, List.append_nil], by rw [hb, replay_nil]⟩

/-- A block reset that lands in an operation leaves the bus as the transactions that are kept leave it (log 13). -/
theorem Did.reachedByTrace_landReset {es : List Event} {s t : State} (h : Did es s t) :
    ReachedByTrace s (landReset s t) := by
  rcases landReset_cases s t with ⟨-, e⟩ | ⟨k, -, -, e⟩ | ⟨k, -, -, e⟩ <;> rw [e]
  · exact ⟨es, h.trace, h.bus⟩
  · exact ⟨uptoTransactions k (t.trace.drop s.trace.length), rfl, rfl⟩
  · exact ⟨es, h.trace, h.bus⟩

/-- From s to t the first move of the agenda, which is one of the devices, was made, and nothing else reached the
bus (60_exceptions.md R245, R255; log 15, log 23). -/
def ReachedByMove (s t : State) : Prop :=
  t.trace = s.trace ∧ ∃ m rest, s.agenda = m :: rest ∧ t.agenda = rest ∧
    ((∃ i, m = .landConversion i ∧ t.bus = { s.bus with population := s.bus.population.land i }) ∨
      (∃ k i, m = .landAfter k i ∧ t.bus = s.bus.planLanding k i) ∨
      ∃ q, m = .population q ∧ s.seq = .idle ∧ t.bus = { s.bus with population := q })

/-- What the block performs reaches the bus by its transactions, also where a block reset cuts it short; of the other
steps only the moves of the devices write the bus. -/
theorem step_reaches_bus {s t : State} (h : step s = .next t) : ReachedByTrace s t ∨ ReachedByMove s t := by
  rcases step_cases h with ⟨-, -, rfl⟩ | ⟨m, rest, p, i, u, -, -, -, -, -, hu, rfl⟩ | ⟨rest, q, i, o, -, -, -, -, rfl⟩ |
    ⟨m, rest, p, r, -, -, rfl, -⟩ | ⟨rest, -, rfl⟩ | ⟨k, rest, -, rfl⟩ | ⟨d, rest, ha, rfl⟩ | ⟨k, d, rest, ha, rfl⟩ |
    ⟨q, rest, hi, ha, rfl⟩ | ⟨i, pos, -, rfl, -⟩
  · exact .inl (reachedByTrace_of_unchanged rfl rfl)
  · obtain ⟨es, did⟩ := did_exec hu
    exact .inl did.reachedByTrace_landReset
  · exact .inl (did_startOp o i { s with agenda := rest }).reachedByTrace_landReset
  · exact .inl (reachedByTrace_of_unchanged rfl rfl)
  · exact .inl (reachedByTrace_of_unchanged rfl rfl)
  · exact .inl (reachedByTrace_of_unchanged rfl rfl)
  · exact .inr ⟨rfl, _, rest, ha, rfl, .inl ⟨d, rfl, rfl⟩⟩
  · exact .inr ⟨rfl, _, rest, ha, rfl, .inr (.inl ⟨k, d, rfl, rfl⟩)⟩
  · exact .inr ⟨rfl, _, rest, ha, rfl, .inr (.inr ⟨q, rfl, hi, rfl⟩)⟩
  · obtain ⟨es, did⟩ := did_goOn i pos s
    exact .inl did.reachedByTrace_landReset

/-- Settles O17: what an instruction performs it performs by its events, and a step reaches the bus by these or by a
move of the devices. -/
theorem busReceivesExactlyTheTrace : Obligations.BusReceivesExactlyTheTrace := by
  constructor
  · intro i s
    obtain ⟨t, ht⟩ := exec_answers i s
    obtain ⟨es, did⟩ := did_exec ht
    exact ⟨t, es, ht, did.trace, did.bus, did.agenda, did.refusals, did.pendingReset, did.params⟩
  · intro s t h
    rcases step_reaches_bus h with ⟨es, ht, hb⟩ | ⟨ht, moved⟩
    · exact ⟨es, ht, .inl hb⟩
    · exact ⟨[], by rw [ht, List.append_nil], .inr ⟨rfl, moved⟩⟩

end Sys2Proof.Machine
end

section
/-! SUPPORT. The decoder by the fields of a request word, which words it takes up, and which it refuses
(30_encoding.md R81, R86, R98). -/

namespace Sys2Proof

open Sys2Proof.Machine

/-- A word whose reserved bits are 0 is made of its fields (30_encoding.md R81). -/
theorem exists_hostWord {w : Word} (h : w.reservedField = 0) : ∃ op bit byte raw, w = hostWord op bit byte raw := by
  refine ⟨w.opField, w.bitField, w.byteField, w.rawField, BitVec.eq_of_getLsbD_eq fun i hi => ?_⟩
  have reserved (j : Nat) (hj : j < 3) : w.getLsbD (5 + j) = false := by
    have := congrArg (fun v => v.getLsbD j) h
    simpa [Word.reservedField, hj] using this
  rw [getLsbD_hostWord]
  split_ifs with h4 h5 h8 h16
  · simp [Word.opField, h4]
  · simp [Word.bitField, h5]
  · simpa [show 5 + (i - 5) = i by omega] using reserved (i - 5) (by omega)
  · simp [Word.byteField, show i - 8 < 8 by omega, show 8 + (i - 8) = i by omega]
  · simp [Word.rawField, show i - 16 < 16 by omega, show 16 + (i - 16) = i by omega]

/-! ### The runs of bits that the decoder requires to be 0 (30_encoding.md R98), by fields -/

/-- A run of bits is 0 just where its two parts are. -/
theorem extract_eq_zero_split (w : Word) (k m n : Nat) :
    w.extractLsb' k (m + n) = 0 ↔ w.extractLsb' k m = 0 ∧ w.extractLsb' (k + m) n = 0 := by
  simp only [BitVec.eq_of_getLsbD_eq_iff, BitVec.getLsbD_extractLsb']
  constructor
  · intro h
    exact ⟨fun i hi => by simpa [hi, show i < m + n by omega] using h i (by omega),
      fun i hi => by simpa [hi, Nat.add_assoc] using h (m + i) (by omega)⟩
  · rintro ⟨hm, hn⟩ i hi
    by_cases h : i < m
    · simpa [h, hi] using hm i h
    · simpa [hi, show i - m < n by omega, show k + m + (i - m) = k + i by omega] using hn (i - m) (by omega)

theorem extract_4_1_eq_zero (w : Word) : w.extractLsb' 4 1 = 0#1 ↔ w.bitField = false := by
  simp [BitVec.eq_of_getLsbD_eq_iff, Word.bitField]

theorem extract_5_11_eq_zero (w : Word) : w.extractLsb' 5 11 = 0#11 ↔ w.reservedField = 0 ∧ w.byteField = 0 :=
  extract_eq_zero_split w 5 3 8

theorem extract_5_27_eq_zero (w : Word) :
    w.extractLsb' 5 27 = 0#27 ↔ (w.reservedField = 0 ∧ w.byteField = 0) ∧ w.rawField = 0 := by
  rw [← extract_5_11_eq_zero]
  exact extract_eq_zero_split w 5 11 16

theorem extract_4_28_eq_zero (w : Word) :
    w.extractLsb' 4 28 = 0#28 ↔ w.bitField = false ∧ (w.reservedField = 0 ∧ w.byteField = 0) ∧ w.rawField = 0 := by
  rw [← extract_5_27_eq_zero, ← extract_4_1_eq_zero]
  exact extract_eq_zero_split w 4 1 27

/-! ### The decoder as a selection by OP and one test of the unused fields -/

/-- The instruction that the OP of a word selects, with its operands from the fields and the data beside the word
(30_encoding.md R81 to R85); none where the OP is unassigned. -/
def selected (w : Word) (data : List Byte) : Option Instr :=
  match w.opField.toNat with
  | 1 => some .owReset
  | 2 => some (.owWriteBit w.bitField)
  | 3 => some .owReadBit
  | 4 => some (.owWriteByte w.byteField)
  | 5 => some (.crc8 (crcOperand w.byteField.toNat data))
  | 6 => some .discoverAll
  | 7 => some .sampleAll
  | 8 => some (.format (unitOfBit w.bitField) w.rawField)
  | _ => none

theorem selected_eq_none (w : Word) (data : List Byte) :
    selected w data = none ↔ w.opField.toNat = 0 ∨ 9 ≤ w.opField.toNat := by
  have bound : w.opField.toNat < 16 := w.opField.isLt
  unfold selected
  interval_cases w.opField.toNat <;> simp

/-- What an OP can select. -/
theorem selected_cases {w : Word} {data : List Byte} {i : Instr} (h : selected w data = some i) :
    (w.opField = 1 ∧ i = .owReset) ∨ (w.opField = 2 ∧ i = .owWriteBit w.bitField) ∨ (w.opField = 3 ∧ i = .owReadBit) ∨
      (w.opField = 4 ∧ i = .owWriteByte w.byteField) ∨
      (w.opField = 5 ∧ i = .crc8 (crcOperand w.byteField.toNat data)) ∨ (w.opField = 6 ∧ i = .discoverAll) ∨
      (w.opField = 7 ∧ i = .sampleAll) ∨ (w.opField = 8 ∧ i = .format (unitOfBit w.bitField) w.rawField) := by
  have op : w.opField = BitVec.ofNat 4 w.opField.toNat := by simp
  have bound : w.opField.toNat < 16 := w.opField.isLt
  unfold selected at h
  interval_cases hn : w.opField.toNat <;> cases h <;> simp [op]

theorem decodeHostOp_reserved {w : Word} (h : w.reservedField ≠ 0) (data : List Byte) :
    decodeHostOp w data = .error .reservedBits := by
  rw [decodeHostOp, if_pos h]

/-- Each OP that selects an instruction requires of its word that no field it does not use is set; another OP is
refused (30_encoding.md R86, R98). -/
theorem decodeHostOp_of_selected {w : Word} (h : w.reservedField = 0) (data : List Byte) :
    decodeHostOp w data =
      (selected w data).elim (.error .unassignedOp) fun i => require (!unusedFieldSet w) i := by
  have op : w.opField = BitVec.ofNat 4 w.opField.toNat := by simp
  have bound : w.opField.toNat < 16 := w.opField.isLt
  rw [decodeHostOp, if_neg (not_not.mpr h), selected, unusedFieldSet]
  interval_cases hn : w.opField.toNat <;>
    simp [op, h, extract_4_28_eq_zero, extract_5_27_eq_zero, extract_5_11_eq_zero, bne, beq_eq_decide, Bool.and_comm,
      Bool.and_assoc]

/-- The words that are taken up, and what for. -/
theorem decodeHostOp_eq_ok {w : Word} {data : List Byte} {i : Instr} :
    decodeHostOp w data = .ok i ↔ w.reservedField = 0 ∧ selected w data = some i ∧ unusedFieldSet w = false := by
  by_cases hr : w.reservedField = 0
  · rw [decodeHostOp_of_selected hr]
    cases selected w data with
    | none => simp
    | some j => cases unusedFieldSet w <;> simp [require, hr]
  · rw [decodeHostOp_reserved hr]
    exact ⟨(nomatch ·), fun h => absurd h.1 hr⟩

/-- The words that are refused, each with its reason (60_exceptions.md R236). -/
theorem decodeHostOp_eq_error {w : Word} {data : List Byte} {r : RefusalReason} :
    decodeHostOp w data = .error r ↔ refusalOf w = some r := by
  by_cases hr : w.reservedField = 0
  · rw [decodeHostOp_of_selected hr, refusalOf, if_neg (not_not.mpr hr)]
    cases hs : selected w data with
    | none => simp [(selected_eq_none w data).mp hs]
    | some j =>
      rw [if_neg (mt (selected_eq_none w data).mpr (by simp [hs]))]
      cases unusedFieldSet w <;> simp [require]
  · rw [decodeHostOp_reserved hr, refusalOf, if_pos hr]
    simp

/-! ### Words and their encodings -/

/-- With its N bytes supplied, CRC8's operand is these (30_encoding.md R85). -/
theorem crcOperand_length (data : List Byte) : crcOperand data.length data = data := by
  apply List.ext_getElem (by simp [crcOperand])
  intro k hk _
  have : k < data.length := by simpa [crcOperand] using hk
  simp [crcOperand, this]

theorem bitOfUnit_unitOfBit (b : Bool) : bitOfUnit (unitOfBit b) = b := by cases b <;> rfl

theorem unitOfBit_bitOfUnit (u : TempUnit) : unitOfBit (bitOfUnit u) = u := by cases u <;> rfl

theorem decode_hostWord {op : BitVec 4} {bit : Bool} {byte : Byte} {raw : Half} {data : List Byte} {i : Instr}
    (hs : selected (hostWord op bit byte raw) data = some i)
    (hu : unusedFieldSet (hostWord op bit byte raw) = false) :
    decode (.hostOp (hostWord op bit byte raw) data) = .ok i :=
  decodeHostOp_eq_ok.mpr ⟨reservedField_hostWord .., hs, hu⟩

/-- A word with no unused field set, which carries the data bytes it asks for, is the encoding of what its OP
selects. -/
theorem encode_of_selected {op : BitVec 4} {bit : Bool} {byte : Byte} {raw : Half} {data : List Byte} {i : Instr}
    (hs : selected (hostWord op bit byte raw) data = some i)
    (hu : unusedFieldSet (hostWord op bit byte raw) = false)
    (hd : data.length = Packet.operandBytes (.hostOp (hostWord op bit byte raw) data)) :
    encode i = .hostOp (hostWord op bit byte raw) data ∧ i.wellFormed = true := by
  have cases := selected_cases hs
  rw [operandBytes_hostWord] at hd
  simp only [opField_hostWord, bitField_hostWord, byteField_hostWord, rawField_hostWord] at cases
  simp only [unusedFieldSet, opField_hostWord, bitField_hostWord, byteField_hostWord, rawField_hostWord] at hu
  rcases cases with ⟨rfl, rfl⟩ | ⟨rfl, rfl⟩ | ⟨rfl, rfl⟩ | ⟨rfl, rfl⟩ | ⟨rfl, rfl⟩ | ⟨rfl, rfl⟩ | ⟨rfl, rfl⟩ |
    ⟨rfl, rfl⟩
  all_goals simp at hu hd
  -- CRC8 is the one OP with data beside its word
  pick_goal 5
  · have hl : byte.toNat ≤ 255 := by omega
    rw [← hd, crcOperand_length]
    simp [encode, Instr.wellFormed, hd, hu, hl]
  all_goals simp [encode, Instr.wellFormed, bitOfUnit_unitOfBit, hu, hd]

theorem encode_of_decodeBusCmd {b : Byte} {i : Instr} (h : decodeBusCmd b = .ok i) :
    encode i = .busCmd b ∧ i.wellFormed = true := by
  unfold decodeBusCmd at h
  split_ifs at h with h1 h2 h3 h4 <;> cases h <;> simp [encode, Instr.wellFormed, *]

end Sys2Proof
end

section
/-! CERTIFICATES. The encoding (30_encoding.md R81 to R101). -/

namespace Sys2Proof

open Sys2Proof.Machine

/-- Settles O1: the fields of the encoding's word select the instruction, and no field its OP does not use is set. -/
theorem decodeOfEncode : Obligations.DecodeOfEncode := by
  intro i hw
  cases i with
  | crc8 data =>
    have hl : data.length ≤ 255 := by simpa [Instr.wellFormed] using hw
    have hn : (BitVec.ofNat 8 data.length).toNat = data.length := by
      simp
      omega
    apply decode_hostWord
    · rw [selected, opField_hostWord, byteField_hostWord, hn, crcOperand_length]
      rfl
    · simp [unusedFieldSet, opField_hostWord, bitField_hostWord, rawField_hostWord]
  | format u raw =>
    apply decode_hostWord
    · simp [selected, opField_hostWord, bitField_hostWord, rawField_hostWord, unitOfBit_bitOfUnit]
    · simp [unusedFieldSet, opField_hostWord, byteField_hostWord]
  | owReset | owWriteBit b | owReadBit | owWriteByte v | discoverAll | sampleAll =>
    apply decode_hostWord
    · simp [selected, opField_hostWord, bitField_hostWord, byteField_hostWord]
    · simp [unusedFieldSet, opField_hostWord, bitField_hostWord, byteField_hostWord, rawField_hostWord]
  | searchRom | matchRom | readScratchpad | convertT => rfl

/-- Settles O2: a word that is taken up has its reserved bits 0, and so it is made of its fields. -/
theorem encodeOfDecode : Obligations.EncodeOfDecode := by
  intro p i hw hd
  cases p with
  | busCmd b => exact encode_of_decodeBusCmd hd
  | hostOp w data =>
    obtain ⟨hr, hs, hu⟩ := decodeHostOp_eq_ok.mp hd
    obtain ⟨op, bit, byte, raw, rfl⟩ := exists_hostWord hr
    exact encode_of_selected hs hu (of_decide_eq_true hw)

/-- Settles O3: the decoder's tests stand in the order of precedence. -/
theorem refusedWordsAndReasons : Obligations.RefusedWordsAndReasons := fun _ _ _ => decodeHostOp_eq_error

/-- Settles O4: the decoder compares a byte with the four, and a request word is decoded as a host operation. -/
theorem busCommandBytes : Obligations.BusCommandBytes := by
  refine ⟨rfl, rfl, rfl, rfl, fun b hb => ?_, fun q i h => ?_⟩
  · obtain ⟨h1, h2, h3, h4⟩ : b ≠ 0xF0#8 ∧ b ≠ 0x55#8 ∧ b ≠ 0xBE#8 ∧ b ≠ 0x44#8 := by simpa using hb
    exact (if_neg h1).trans ((if_neg h2).trans ((if_neg h3).trans (if_neg h4)))
  · obtain ⟨o, ho⟩ := decode_request h
    rw [ho]
    rfl

/-- Settles O5: seven of the words are encodings, and two are refused. -/
theorem decodedWords : Obligations.DecodedWords :=
  ⟨decodeOfEncode .owReset rfl, decodeOfEncode (.owWriteBit true) rfl, decodeOfEncode (.owWriteByte 0xF0) rfl,
    decodeOfEncode (.crc8 [0x80]) rfl, decodeOfEncode .discoverAll rfl, decodeOfEncode .sampleAll rfl,
    decodeOfEncode (.format .fahrenheit 0x07D0) rfl, (refusedWordsAndReasons _ _ _).mpr rfl,
    (refusedWordsAndReasons _ _ _).mpr rfl⟩

end Sys2Proof
end

section
/-! SUPPORT. Refused words in a step, and the frames of the bus commands (30_encoding.md R86, R92 to R95). -/

namespace Sys2Proof.Machine

/-! ### The step at a refused word -/

theorem step_of_idle {s : State} (h : s.seq = .idle) : step s = idleStep s := by
  rw [step, stepAgents, h]

theorem step_of_busy {s : State} {i : Instr} {pos : Pos} (h : s.seq = .busy i pos) : step s = busyStep i pos s := by
  rw [step, stepAgents, h]

/-- While IDLE, a packet that does not decode is refused, whichever move presents it (60_exceptions.md R236). -/
theorem step_refused {s : State} {m : Move} {p : Packet} {rest : List Move} {r : RefusalReason} (hi : s.seq = .idle)
    (ha : s.agenda = m :: rest) (hp : m.packet = some p) (hd : decode p = .error r) :
    step s = .next (refuseWord r { s with agenda := rest }) := by
  by_cases hm : ∃ q, m = .start q
  · obtain ⟨q, rfl⟩ := hm
    cases hp
    simp only [step_of_idle hi, idleStep, ha, dropMove_of_agenda ha, acceptStart, hd]
  · rw [step_accept hi ha hp (not_exists.mp hm), accept, hd]

/-- While BUSY, a word presented without waiting is refused (60_exceptions.md R236; 70_reset_and_hazards.md R277). -/
theorem step_intrude {s : State} {q : Request} {rest : List Move} (hb : s.seq ≠ .idle)
    (ha : s.agenda = .intrude q :: rest) : step s = .next (refuseWord .busy { s with agenda := rest }) := by
  obtain ⟨i, pos, hs⟩ : ∃ i pos, s.seq = .busy i pos := by
    cases hs : s.seq with
    | idle => exact absurd hs hb
    | busy i pos => exact ⟨i, pos, rfl⟩
  simp only [step_of_busy hs, busyStep, ha, dropMove_of_agenda ha]

/-! ### The frames -/

theorem setSample_eq (i : Fin 5) (v : Half) (s : State) :
    setSample i.val v s = { s with samples := s.samples.set i.val v i.isLt } := by
  have : s.samples.setIfInBounds i.val v = s.samples.set i.val v i.isLt := by
    ext j hj
    simp [Vector.getElem_set, Vector.getElem_setIfInBounds]
  rw [setSample, this]

theorem searchFrame_trace_absent {s : State} (h : s.bus.presenceBit = false) :
    (searchFrame s).2.trace = s.trace ++ [.rst false] := by
  rw [searchFrame_absent s h]
  rfl

/-- With presence, the slots of a pass: 0xF0 and triplets, and two reads of 1 where it ends early; where the reads of
a triplet differ the direction is the devices' bit (30_encoding.md R92; 42_enumerator.md R157, R158). -/
theorem searchFrame_trace_present {s : State} (h : s.bus.presenceBit = true) :
    ∃ (ts : List (Bool × Bool × Bool)) (tail : List Event),
      (searchFrame s).2.trace = s.trace ++
        .rst true :: (writeEvents (byteBits Config.cmdSearchRom) ++ ts.flatMap triplet ++ tail) ∧
      ((ts.length = 64 ∧ tail = []) ∨ (ts.length < 64 ∧ tail = [.r true, .r true])) ∧
      ∀ x ∈ ts, ¬(x.1 = true ∧ x.2.1 = true) ∧ (x.1 ≠ x.2.1 → x.2.2 = x.1) := by
  have released : (searchStart s).pin = Pin.afterSlot := by rw [searchStart_eq, onBus_pin]
  obtain ⟨ts, tail, r, he, -, -, ht, hm⟩ := searchPositions_eq 64 (le_refl _) (searchStart s) released
  rw [searchFrame_present s h]
  refine ⟨ts, tail, ?_, ?_, ht⟩
  · rw [he, searchStart_eq, h]
    simp [onBus]
  · revert hm
    cases (searchPositions 64 (searchStart s)).1 with
    | absent => exact False.elim
    | noResponse q => exact fun ⟨hl, _, htail⟩ => .inr ⟨hl, htail⟩
    | complete => exact .inl

end Sys2Proof.Machine
end

section
/-! CERTIFICATES. Refused words in a step, and the frames of the bus commands. -/

namespace Sys2Proof.Machine

/-- Settles O7: whichever move presents the word, the step only notes its reason. -/
theorem refusedWordChangesNothing : Obligations.RefusedWordChangesNothing := by
  intro s m p rest ha
  refine ⟨fun r hi hp hd => step_refused hi ha hp hd, ?_⟩
  rintro q hb rfl
  exact step_intrude hb ha

/-- Settles O43: the slots are those of the reset, the command byte and the positions, and the frame writes the search
registers only. -/
theorem searchRomFrame : Obligations.SearchRomFrame := by
  intro s
  obtain ⟨es, r, frame, hl, hd⟩ := searchFrame_frame s
  have run : exec .searchRom s = .next (onBus es { s with search := r }) := congrArg Host.Outcome.next frame
  cases h : s.bus.presenceBit with
  | false =>
    exact ⟨_, [], run, frame ▸ searchFrame_trace_absent h, fun _ => rfl, nofun, hl, hd,
      rfl, rfl, rfl, rfl, rfl, rfl, rfl, rfl⟩
  | true =>
    obtain ⟨ts, tail, slots, ends, directions⟩ := searchFrame_trace_present h
    exact ⟨_, _, run, frame ▸ slots, nofun, fun _ => ⟨ts, tail, rfl, ends, directions⟩, hl, hd,
      rfl, rfl, rfl, rfl, rfl, rfl, rfl, rfl⟩

/-- Settles O44: addressing a device is one run of transactions. -/
theorem matchRomFrame : Obligations.MatchRomFrame := fun s =>
  congrArg (fun r : Bool × State => Host.Outcome.next r.2) (addressDevice_eq s.index.val s)

/-- Settles O45: the frame is one run of transactions, whose sixteen answers are stored. -/
theorem readScratchpadFrame : Obligations.ReadScratchpadFrame := by
  intro s
  have run : exec .readScratchpad s = .next (readFrame s.index.val s).2 := rfl
  rw [run, readFrame_eq]
  constructor
  · intro h
    simp [readFrameEvents, h]
  · intro h cmd bits
    have hc : commandEvents Config.cmdReadScratchpad (tableEntry s s.index.val) s.bus = cmd := by
      simp only [commandEvents, matchFrameEvents, h, if_true]
      rfl
    simp only [h, if_true, readFrameEvents, frameAnswers, hc, setSample_eq]
    rfl

/-- Settles O46: the frame is one run of transactions, with no read in it. -/
theorem convertTFrame : Obligations.ConvertTFrame := by
  intro s
  have run : exec .convertT s = .next (convertFrame s.index.val s).2 := rfl
  rw [run, convertFrame_eq]
  cases h : s.bus.presenceBit with
  | false => simp [convertFrameEvents, h]
  | true =>
    simp only [convertFrameEvents, commandEvents, matchFrameEvents, h, if_true]
    rfl

end Sys2Proof.Machine
end

section
/-! SUPPORT. Host operations that are one run of transactions, the pin through a wire program, and the bus time of
events as it is asked for and as it comes out (40_bitlink.md). -/

namespace Sys2Proof.Machine

/-! ### Host operations that are one run of transactions -/

/-- What a host operation leaves where its procedure is a run of transactions and a return: its start and exactly
those transactions stand in the trace. -/
theorem exec_of_onBus {i : Instr} {o : HostOp} {es : List Event} {v : Result} {s : State} (ho : hostOpOf i = some o)
    (run : goOn i .start (startOp o i s) = returnOp v (onBus es (startOp o i s))) :
    exec i s = .next { s with
      trace := s.trace ++ .op o :: es, bus := s.bus.replay es, pin := Pin.afterSlot, result := v, seq := .idle } := by
  rw [exec_hostOp ho, run]
  simp [returnOp, onBus, startOp, record]

/-! ### The pin -/

/-- Every wire program starts by driving the line low, and ends with it released (40_bitlink.md R121). -/
theorem wireProgram_ends {prog : List WireAction}
    (h : prog ∈ [wireReset, wireWrite true, wireWrite false, wireRead]) :
    (∃ rest, prog = .driveLow :: rest) ∧ ∀ p : Pin, p.run prog = Pin.afterSlot := by
  simp only [List.mem_cons, List.not_mem_nil, or_false] at h
  rcases h with rfl | rfl | rfl | rfl
  · exact ⟨⟨_, rfl⟩, wireReset_releases⟩
  · exact ⟨⟨_, rfl⟩, fun p => wireWrite_releases p true⟩
  · exact ⟨⟨_, rfl⟩, fun p => wireWrite_releases p false⟩
  · exact ⟨⟨_, rfl⟩, wireRead_releases⟩

/-- No wire action raises the output level (20_memory.md R56). -/
theorem Pin.act_level {p : Pin} (h : p.level = false) (a : WireAction) : (p.act a).level = false := by
  cases a with
  | driveLow => rfl
  | release | sample | delay _ => exact h

theorem Pin.run_level {p : Pin} (h : p.level = false) (prog : List WireAction) : (p.run prog).level = false := by
  induction prog generalizing p with
  | nil => exact h
  | cons a rest ih => exact ih (act_level h a)

/-- From its first action on, a program that starts by driving low has the output level low. -/
theorem Pin.run_take_level (p : Pin) (rest : List WireAction) {n : Nat} (hn : 1 ≤ n) :
    (p.run ((.driveLow :: rest).take n)).level = false := by
  obtain ⟨m, rfl⟩ := Nat.exists_eq_add_of_le' hn
  exact run_level (p := p.act .driveLow) rfl (rest.take m)

/-! ### The time asked for -/

theorem wireTime_reset (t : Timing) :
    wireTime t wireReset = t.rstl + (t.pdwait + (t.rstTotal - t.rstl - t.pdwait)) := rfl

theorem wireTime_write (t : Timing) (b : Bool) :
    wireTime t (wireWrite b) = (if b then t.low1 else t.low0) + t.recW := by
  cases b <;> rfl

theorem wireTime_read (t : Timing) :
    wireTime t wireRead = t.lowR + (t.rdv - t.lowR + (t.slotR - t.rdv)) := rfl

theorem busTime_cons (t : Timing) (e : Event) (es : List Event) :
    busTime t (e :: es) = Event.ns t e + busTime t es := rfl

theorem resets_cons (e : Event) (es : List Event) : resets (e :: es) = resets [e] + resets es :=
  List.countP_append (l₁ := [e])

theorem writes_cons (e : Event) (es : List Event) : writes (e :: es) = writes [e] + writes es :=
  List.countP_append (l₁ := [e])

theorem reads_cons (e : Event) (es : List Event) : reads (e :: es) = reads [e] + reads es :=
  List.countP_append (l₁ := [e])

theorem Event.ns_eq (t : Timing) (e : Event) :
    e.ns t = resets [e] * t.rstTotal + writes [e] * t.slotW + reads [e] * t.slotR := by
  cases e <;> simp [Event.ns, resets, writes, reads]

/-- The bus time asked for is that of the resets, write slots and read slots (70_reset_and_hazards.md R284). -/
theorem busTime_eq (t : Timing) (es : List Event) :
    busTime t es = resets es * t.rstTotal + writes es * t.slotW + reads es * t.slotR := by
  induction es with
  | nil => simp [busTime, resets, writes, reads]
  | cons e es ih =>
    rw [busTime_cons, resets_cons, writes_cons, reads_cons, Event.ns_eq, ih]
    ring

/-! ### The time as it comes out (40_bitlink.md R124; log 28) -/

/-- A platform may take exactly what is asked for: each delay of the contract is within its own phase's maximum. -/
theorem took_asked {t : Timing} (ht : t.Ok) (e : Event) :
    Took.Ok t e { waits := (delays e.program).map (Delay.ns t), total := Event.ns t e } := by
  obtain ⟨⟨-, hrstl, hfrom, hto, hrst, -⟩, ⟨-, hlow1, -, hlow0, -, hw1, hw0, -, hslotW⟩,
    -, hlowR, hrdv, hvalid, hslotR, hread⟩ := ht
  refine ⟨List.forall₂_map_right_iff.mpr (List.forall₂_same.mpr fun d _ => le_refl _), ?_⟩
  cases e with
  | op _ | oc _ => rfl
  | rst p =>
    refine ⟨hrstl, hfrom, hto, ?_⟩
    change t.rstTotal = wireTime t wireReset
    rw [wireTime_reset]
    omega
  | w b =>
    refine ⟨by cases b <;> assumption, ?_, le_refl _, hslotW⟩
    change wireTime t (wireWrite b) ≤ t.slotW
    rw [wireTime_write]
    cases b <;> assumption
  | r b =>
    refine ⟨hlowR, ?_, ?_, hread⟩
    · change t.lowR + (t.rdv - t.lowR) ≤ 30000
      omega
    · change t.slotR = wireTime t wireRead
      rw [wireTime_read]
      omega

/-- However late its delays return, an event takes no less than it asks for. -/
theorem Took.Ok.ns_le {t : Timing} {e : Event} {x : Took} (h : x.Ok t e) : Event.ns t e ≤ x.total := by
  cases e with
  | op _ | oc _ => exact Nat.zero_le _
  | rst p =>
    obtain ⟨low, wait, rest, -, htotal, hlow, -, hwait, -, -, hrest⟩ := took_reset h
    simp only [Event.ns]
    omega
  | w b =>
    obtain ⟨low, rec, -, -, hslot, -⟩ := took_write h
    exact hslot
  | r b =>
    obtain ⟨low, valid, rest, -, htotal, -, hlow, -, hvalid, -, hrest⟩ := took_read h
    simp only [Event.ns]
    omega

/-- However late its delays return, a transaction takes no less than its wire program asks for. -/
theorem Took.Ok.wireTime_le {t : Timing} {e : Event} {x : Took} (h : x.Ok t e) : wireTime t e.program ≤ x.total := by
  cases e with
  | op _ | oc _ => exact Nat.zero_le _
  | rst p =>
    obtain ⟨low, wait, rest, -, htotal, hlow, -, hwait, -, -, hrest⟩ := took_reset h
    rw [Event.program, wireTime_reset]
    omega
  | w b =>
    obtain ⟨low, rec, -, htotal, -, -, hlow, -, hrec⟩ := took_write h
    rw [Event.program, wireTime_write]
    omega
  | r b =>
    obtain ⟨low, valid, rest, -, htotal, -, hlow, -, hvalid, -, hrest⟩ := took_read h
    rw [Event.program, wireTime_read]
    omega

/-- A slot takes at most the maximum of its kind (40_bitlink.md R130, R133); a reset has none. -/
theorem Took.Ok.total_le {t : Timing} {e : Event} {x : Took} (h : x.Ok t e) (hr : resets [e] = 0) :
    x.total ≤ writes [e] * 70000 + reads [e] * 75000 := by
  cases e with
  | op _ | oc _ => simp [took_none h rfl]
  | rst p => cases hr
  | w b =>
    obtain ⟨low, rec, -, -, -, hmax, -⟩ := took_write h
    simpa [writes, reads] using hmax
  | r b =>
    obtain ⟨low, valid, rest, -, -, hmax, -⟩ := took_read h
    simpa [writes, reads] using hmax

theorem busTime_le_tookTime {t : Timing} {es : List Event} {xs : List Took} (h : List.Forall₂ (Took.Ok t) es xs) :
    busTime t es ≤ tookTime xs :=
  (List.forall₂_map_left_iff.mpr (List.forall₂_map_right_iff.mpr (h.imp fun _ _ hx => hx.ns_le))).sum_le_sum

theorem tookTime_le {t : Timing} {es : List Event} {xs : List Took} (h : List.Forall₂ (Took.Ok t) es xs)
    (hr : resets es = 0) : tookTime xs ≤ writes es * 70000 + reads es * 75000 := by
  induction h with
  | nil => exact Nat.zero_le _
  | @cons e x es xs hx _ ih =>
    rw [resets_cons] at hr
    have first := hx.total_le (by omega)
    have others := ih (by omega)
    have sum : tookTime (x :: xs) = x.total + tookTime xs := rfl
    rw [writes_cons, reads_cons]
    omega

end Sys2Proof.Machine
end

section
/-! CERTIFICATES. BitLink and its timing (40_bitlink.md). -/

namespace Sys2Proof.Machine

/-- Settles O24: the read k goes to bit k, and there are sixteen. -/
theorem sampleBitsAreReadsInOrder : Obligations.SampleBitsAreReadsInOrder := by
  intro s
  refine ⟨readSample_state s, fun k hk => ?_⟩
  have h : k < (s.bus.reads 16).length := by rwa [reads_length]
  rw [readSample_bit s k hk, List.getElem?_eq_getElem h, Option.getD_some]

/-- Settles O59: the time is linear in the three counts, and each event's time as it comes out lies between what it
asks for and its slot's maximum. -/
theorem busTimes : Obligations.BusTimes := by
  intro t es
  have asked := busTime_eq t es
  refine ⟨asked, fun ⟨hreset, hwrite, hread⟩ =>
    ⟨?_, ?_, ?_, ?_, ?_, fun xs h => ⟨busTime_le_tookTime h, tookTime_le h⟩⟩⟩ <;>
  · intro nrst nw nr
    rw [asked, nrst, nw, nr]
    omega

/-- Settles O19: the procedure is one reset. -/
theorem owResetEffect : Obligations.OwResetEffect := fun s =>
  exec_of_onBus (es := [.rst s.bus.presenceBit]) rfl rfl

/-- Settles O20: the procedure is one write slot. -/
theorem owWriteBitEffect : Obligations.OwWriteBitEffect := fun b _ =>
  exec_of_onBus (es := [.w b]) rfl rfl

/-- Settles O21: the procedure is one read slot. -/
theorem owReadBitEffect : Obligations.OwReadBitEffect := fun s =>
  exec_of_onBus (es := [.r s.bus.readBit]) rfl rfl

/-- Settles O22: the procedure is the write slots of the byte's bits. -/
theorem owWriteByteEffect : Obligations.OwWriteByteEffect := fun v _ =>
  exec_of_onBus (es := writeEvents (byteBits v)) rfl (congrArg (returnOp .noValue) (writeByte_eq v _))

/-- Settles O23: the byte's bits in slot order, of which each is one event. -/
theorem writeByteIsEightSlots : Obligations.WriteByteIsEightSlots := by
  intro v s
  refine ⟨rfl, ?_⟩
  rw [writeByte_eq]
  exact List.length_append

/-- Settles O25: each program starts by driving low, after which no action raises the level, and ends released. -/
theorem pinOnlyDrivenLow : Obligations.PinOnlyDrivenLow := by
  intro prog hprog p
  obtain ⟨⟨rest, rfl⟩, released⟩ := wireProgram_ends hprog
  rw [released]
  exact ⟨rfl, rfl, rfl, fun n hn _ => p.run_take_level rest hn⟩

/-- Settles O60: the contract bounds what the programs ask for, and late delays only add to it. -/
theorem wireProgramsFitTheirSlots : Obligations.WireProgramsFitTheirSlots := by
  intro t ht
  have ⟨hreset, hwrite, hread⟩ := ht
  refine ⟨?_, hreset.1, ?_, ?_, fun e => ⟨took_asked ht e, fun x hx => ⟨hx.wireTime_le, hx.ns_le, ?_⟩⟩⟩
  · rw [wireTime_reset]
    omega
  · rw [wireTime_read]
    omega
  · intro b
    rw [wireTime_write]
    split <;> omega
  · rintro p rfl
    obtain ⟨low, wait, rest, hwaits, -, hasked, hmax, -⟩ := took_reset hx
    exact ⟨low, by rw [hwaits, List.head?_cons], hreset.1.trans hasked, hmax⟩

end Sys2Proof.Machine
end

section
/-! SUPPORT. The algebra of the CRC: linear over XOR, injective in the checksum, 0 exactly where the last byte is the
checksum of those before it (41_crc8.md R142). -/

namespace Sys2Proof.Machine

/-- A fold whose every step is injective in the accumulator is injective in where it starts. -/
theorem foldl_injective {α β : Type} {f : β → α → β} (hf : ∀ a, Function.Injective (f · a)) (l : List α) :
    Function.Injective (l.foldl f ·) := by
  induction l with
  | nil => exact Function.injective_id
  | cons a l ih => exact ih.comp (hf a)

/-! ### One bit -/

/-- What is fed back for the XORed bit x of 41_crc8.md R140. -/
def crcFeedback (x : Bool) : Byte := if x then Config.crcPoly else 0

theorem crcFeedback_xor (x y : Bool) : crcFeedback (x ^^ y) = crcFeedback x ^^^ crcFeedback y := by
  cases x <;> cases y <;> rfl

/-- Only the fed-back byte has bit 7 set. -/
theorem getLsbD_crcFeedback_seven (x : Bool) : (crcFeedback x).getLsbD 7 = x := by
  cases x <;> rfl

theorem crcBit_eq (c : Byte) (b : Bool) : crcBit c b = (c >>> 1) ^^^ crcFeedback (c.getLsbD 0 ^^ b) := by
  unfold crcBit crcFeedback
  split <;> simp

theorem crcBit_xor (c c' : Byte) (b b' : Bool) : crcBit (c ^^^ c') (b ^^ b') = crcBit c b ^^^ crcBit c' b' := by
  have fed : ((c ^^^ c').getLsbD 0 ^^ (b ^^ b')) = ((c.getLsbD 0 ^^ b) ^^ (c'.getLsbD 0 ^^ b')) := by
    rw [BitVec.getLsbD_xor, Bool.xor_assoc, Bool.xor_assoc, Bool.xor_left_comm b]
  rw [crcBit_eq, crcBit_eq, crcBit_eq, fed, BitVec.ushiftRight_xor_distrib, crcFeedback_xor]
  ac_rfl

/-- Where the bit is bit 0 of the checksum, nothing is fed back. -/
theorem crcBit_self (c : Byte) : crcBit c (c.getLsbD 0) = c >>> 1 := by simp [crcBit]

/-- Bit 7 of the next checksum is the XORed bit: the shift clears it. -/
theorem getLsbD_crcBit_seven (c : Byte) (b : Bool) : (crcBit c b).getLsbD 7 = (c.getLsbD 0 ^^ b) := by
  rw [crcBit_eq, BitVec.getLsbD_xor, getLsbD_crcFeedback_seven, BitVec.getLsbD_ushiftRight,
    BitVec.getLsbD_of_ge _ _ (by decide), Bool.false_xor]

/-- The next checksum tells the XORed bit, and so what was fed back, what was shifted and the bit shifted out. -/
theorem crcBit_injective (b : Bool) : Function.Injective (crcBit · b) := by
  intro c c' (h : crcBit c b = crcBit c' b)
  have low : c.getLsbD 0 = c'.getLsbD 0 := by
    rw [← Bool.xor_left_inj (z := b), ← getLsbD_crcBit_seven, h, getLsbD_crcBit_seven]
  have shifted : c >>> 1 = c' >>> 1 := by
    rwa [crcBit_eq, crcBit_eq, low, BitVec.xor_left_inj] at h
  apply BitVec.eq_of_getLsbD_eq
  intro i _
  cases i with
  | zero => exact low
  | succ i => simpa only [BitVec.getLsbD_ushiftRight, Nat.add_comm 1] using congrArg (BitVec.getLsbD · i) shifted

/-! ### One byte -/

theorem crcByte_xor (c c' v v' : Byte) : crcByte (c ^^^ c') (v ^^^ v') = crcByte c v ^^^ crcByte c' v' := by
  simp only [crcByte, byteBits, List.foldl_cons, List.foldl_nil, BitVec.getLsbD_xor, crcBit_xor]

theorem crcByte_injective (v : Byte) : Function.Injective (crcByte · v) := foldl_injective crcBit_injective _

/-- The checksum taken as the next byte shifts itself out: bit i of it is bit 0 after i shifts. -/
theorem crcByte_self (c : Byte) : crcByte c c = 0 := by
  have shift (i : Nat) : crcBit (c >>> i) (c.getLsbD i) = c >>> (i + 1) := by
    simpa [BitVec.shiftRight_add] using crcBit_self (c >>> i)
  simp only [crcByte, byteBits, List.foldl_cons, List.foldl_nil, crcBit_self, shift]
  exact BitVec.ushiftRight_eq_zero (by decide)

theorem crcByte_eq_zero {c v : Byte} : crcByte c v = 0 ↔ c = v := by
  constructor
  · intro h
    exact crcByte_injective v (h.trans (crcByte_self v).symm)
  · rintro rfl
    exact crcByte_self c

/-- Two bytes that meet the same checksum leave different ones. -/
theorem crcByte_ne {v v' : Byte} (h : v ≠ v') (c : Byte) : crcByte c v ≠ crcByte c v' := by
  intro he
  have : crcByte (c ^^^ c) (v ^^^ v') = 0 := (crcByte_xor ..).trans (he ▸ BitVec.xor_self)
  rw [crcByte_eq_zero, BitVec.xor_self] at this
  exact h (BitVec.xor_eq_zero_iff.mp this.symm)

/-! ### Sequences of bytes -/

theorem crc8_append_cons (d e : List Byte) (v : Byte) :
    crc8 (d ++ v :: e) = e.foldl crcByte (crcByte (crc8 d) v) := List.foldl_append

theorem crc8_concat (d : List Byte) (v : Byte) : crc8 (d ++ [v]) = crcByte (crc8 d) v := crc8_append_cons d [] v

theorem crc8_concat_eq_zero {d : List Byte} {v : Byte} : crc8 (d ++ [v]) = 0 ↔ crc8 d = v := by
  rw [crc8_concat, crcByte_eq_zero]

theorem crc8_cons_zero (d : List Byte) : crc8 (0 :: d) = crc8 d :=
  congrArg (d.foldl crcByte ·) (crcByte_self 0)

theorem crc8_replicate_zero (k : Nat) : crc8 (List.replicate k 0) = 0 := by
  induction k with
  | zero => rfl
  | succ k ih => rw [List.replicate_succ, crc8_cons_zero, ih]

theorem foldl_crcByte_xor {a b : List Byte} (h : a.length = b.length) (c c' : Byte) :
    (List.zipWith (fun x y => x ^^^ y) a b).foldl crcByte (c ^^^ c') = a.foldl crcByte c ^^^ b.foldl crcByte c' := by
  induction a generalizing b c c' with
  | nil => rw [List.eq_nil_of_length_eq_zero h.symm]; rfl
  | cons x a ih =>
    obtain ⟨y, b, rfl⟩ := List.exists_cons_of_length_eq_add_one h.symm
    rw [List.zipWith_cons_cons, List.foldl_cons, crcByte_xor, ih (Nat.succ_inj.mp h)]
    rfl

/-- A sequence with one byte changed has another CRC: the checksums part at that byte and never meet again. -/
theorem crc8_ne_of_byte_ne {v v' : Byte} (h : v ≠ v') (d e : List Byte) :
    crc8 (d ++ v :: e) ≠ crc8 (d ++ v' :: e) := by
  rw [crc8_append_cons, crc8_append_cons]
  exact (foldl_injective crcByte_injective e).ne (crcByte_ne h _)

/-! ### One bit of a byte or an identifier, and the bytes of an identifier -/

theorem putBit_not_ne {n : Nat} (v : BitVec n) {k : Nat} (hk : k < n) : putBit v k (!v.getLsbD k) ≠ v := by
  intro h
  have := congrArg (BitVec.getLsbD · k) h
  simp [getLsbD_putBit _ _ _ _ hk] at this

theorem toList_eq_concat (id : Identifier) : id.toList = id.toList.take 7 ++ [id[7]] := by
  have len : id.toList.length = 7 + 1 := id.length_toList
  exact ((List.take_append_getElem (len ▸ Nat.lt_succ_self 7)).trans (List.take_of_length_le len.le)).symm

theorem validId_iff (id : Identifier) : validId id = true ↔ crc8 (id.toList.take 7) = id[7] := by
  simp [validId, idCrc, idByte]

theorem validId_iff_residue (id : Identifier) : validId id = true ↔ crc8 id.toList = 0 := by
  rw [validId_iff, toList_eq_concat, crc8_concat_eq_zero]
  simp

/-- Flipping position p of an identifier flips one bit of one of its eight bytes. -/
theorem toList_setIdBit_not (id : Identifier) {p : Nat} (hp : 1 ≤ p ∧ p ≤ 64) :
    ∃ (d e : List Byte) (v : Byte) (k : Nat), k < 8 ∧ id.toList = d ++ v :: e ∧
      (setIdBit id p (!idBit id p)).toList = d ++ putBit v k (!v.getLsbD k) :: e := by
  have hk : (p - 1) / 8 < 8 := by omega
  have hi : (p - 1) / 8 < id.toList.length := hk.trans_eq id.length_toList.symm
  have hv : idByte id ((p - 1) / 8) = id.toList[(p - 1) / 8] := by simp [idByte, hk]
  refine ⟨id.toList.take ((p - 1) / 8), id.toList.drop ((p - 1) / 8 + 1), idByte id ((p - 1) / 8), (p - 1) % 8,
    Nat.mod_lt _ (by decide), ?_, ?_⟩
  · rw [hv, List.getElem_cons_drop, List.take_append_drop]
  · rw [setIdBit, Vector.toList_setIfInBounds, List.set_eq_take_append_cons_drop, if_pos hi]
    rfl

end Sys2Proof.Machine
end

section
/-! CERTIFICATES. Crc8 (41_crc8.md). -/

namespace Sys2Proof.Machine

/-- Settles O27: one more byte is one more `crcByte`, whose eight bits are those of R140; the rest is its algebra. -/
theorem crcAlgebra : Obligations.CrcAlgebra :=
  ⟨⟨rfl, crc8_concat⟩, by decide, by decide, crc8_replicate_zero, fun _ _ h => foldl_crcByte_xor h 0 0,
    fun d => ⟨crc8_concat_eq_zero.mpr rfl, crc8_cons_zero d⟩⟩

/-- Settles O28: the byte with the changed bit is another byte. -/
theorem crcSeesSingleBitErrors : Obligations.CrcSeesSingleBitErrors := fun d e v _ hk =>
  crc8_ne_of_byte_ne (putBit_not_ne v hk) d e

/-- Settles O29: the second form is the residue of the seven bytes and their CRC. -/
theorem validIdIffResidueZero : Obligations.ValidIdIffResidueZero := fun id =>
  ⟨validId_iff id, validId_iff_residue id⟩

/-- Settles O30: both residues would be 0, and a single-bit change changes the residue. -/
theorem validIdsNeverOneBitApart : Obligations.ValidIdsNeverOneBitApart := by
  intro id p hp hp' hv
  obtain ⟨d, e, v, k, hk, hid, hset⟩ := toList_setIdBit_not id ⟨hp, hp'⟩
  rw [validId_iff_residue, hid] at hv
  rw [Bool.eq_false_iff, ne_eq, validId_iff_residue, hset, ← hv]
  exact crcSeesSingleBitErrors d e v k hk

/-- Settles O26: the procedure only returns the CRC. -/
theorem crc8Effect : Obligations.Crc8Effect := fun _ => exec_hostOp rfl

end Sys2Proof.Machine
end

section
/-! SUPPORT. The slots of a search pass, and what a turn of DISCOVER_ALL's loop can do (42_enumerator.md R150 to R164,
R169). -/

namespace Sys2Proof.Machine

/-! ### Transactions and outcomes among events -/

theorem transactions_append (es fs : List Event) : transactions (es ++ fs) = transactions es + transactions fs :=
  List.countP_append

theorem outcomes_append (es fs : List Event) : outcomes (es ++ fs) = outcomes es ++ outcomes fs :=
  List.filterMap_append

theorem mem_outcomes {o : OutcomeEvent} {es : List Event} : o ∈ outcomes es ↔ Event.oc o ∈ es := by
  constructor
  · intro h
    obtain ⟨e, he, ho⟩ := List.mem_filterMap.mp h
    cases e with
    | oc o' => cases ho; exact he
    | op | rst | w | r => cases ho
  · exact fun h => List.mem_filterMap.mpr ⟨_, h, rfl⟩

/-! ### The slots of a pass -/

/-- The slots of a pass's frame, by how it ended: the reset alone; or with the byte 0xF0 and the triplets, p - 1 of
them and two reads of 1, or all 64 (30_encoding.md R92; 42_enumerator.md R153 to R160). -/
def FrameSlots (es : List Event) : SearchEnd → Prop
  | .absent => es = [.rst false]
  | .noResponse p => ∃ ts : List (Bool × Bool × Bool), ts.length < 64 ∧ p = ts.length + 1 ∧
      es = .rst true :: (writeEvents (byteBits Config.cmdSearchRom) ++ (ts.flatMap triplet ++ [.r true, .r true]))
  | .complete => ∃ ts : List (Bool × Bool × Bool), ts.length = 64 ∧
      es = .rst true :: (writeEvents (byteBits Config.cmdSearchRom) ++ ts.flatMap triplet)

/-- A pass's frame does its slots and writes the search registers, and `lastDiscrepancy` and `done` are not among
these. -/
theorem searchFrame_slots (s : State) : ∃ es r, (searchFrame s).2 = onBus es { s with search := r } ∧
    r.lastDiscrepancy = s.search.lastDiscrepancy ∧ r.done = s.search.done ∧ FrameSlots es (searchFrame s).1 := by
  cases h : s.bus.presenceBit with
  | false =>
    rw [searchFrame_absent s h]
    exact ⟨[.rst false], s.search, rfl, rfl, rfl, rfl⟩
  | true =>
    have started := searchStart_eq s
    have released : (searchStart s).pin = Pin.afterSlot := by rw [started, onBus_pin]
    obtain ⟨ts, tail, r, he, hl, hd, -, hm⟩ := searchPositions_eq 64 (le_refl _) (searchStart s) released
    rw [h] at started
    rw [searchFrame_present s h]
    refine ⟨.rst true :: writeEvents (byteBits Config.cmdSearchRom) ++ (ts.flatMap triplet ++ tail), r,
      ?_, by rw [hl, started]; rfl, by rw [hd, started]; rfl, ?_⟩
    · rw [he, started]
      exact onBus_append _ _ { s with search := r }
    · revert hm
      cases (searchPositions 64 (searchStart s)).1 with
      | absent => exact False.elim
      | noResponse p =>
        rintro ⟨hn, hp, rfl⟩
        exact ⟨ts, hn, by omega, rfl⟩
      | complete =>
        rintro ⟨hn, rfl⟩
        exact ⟨ts, hn, by rw [List.append_nil]; rfl⟩

/-- How many of some kind of events stand in triplets, each of which holds c of them. -/
theorem countP_triplets {kind : Event → Bool} {c : Nat} (hc : ∀ x, (triplet x).countP kind = c)
    (ts : List (Bool × Bool × Bool)) : (ts.flatMap triplet).countP kind = c * ts.length := by
  induction ts with
  | nil => rfl
  | cons x xs ih => rw [List.flatMap_cons, List.countP_append, hc, ih, List.length_cons, Nat.mul_succ, Nat.add_comm]

/-- What a complete frame holds: what the reset, the command byte and 64 triplets hold. -/
theorem FrameSlots.complete_countP {kind : Event → Bool} {c : Nat} (hc : ∀ x, (triplet x).countP kind = c)
    {es : List Event} (h : FrameSlots es .complete) :
    es.countP kind = (Event.rst true :: writeEvents (byteBits Config.cmdSearchRom)).countP kind + c * 64 := by
  obtain ⟨ts, hn, rfl⟩ := h
  rw [← List.cons_append, List.countP_append, countP_triplets hc, hn]

/-- A complete frame is 201 transactions: 1 reset, 72 write slots and 128 read slots (42_enumerator.md R169). -/
theorem FrameSlots.complete_counts {es : List Event} (h : FrameSlots es .complete) :
    transactions es = 201 ∧ resets es = 1 ∧ writes es = 72 ∧ reads es = 128 :=
  ⟨h.complete_countP (c := 3) fun _ => rfl, h.complete_countP (c := 0) fun _ => rfl,
    h.complete_countP (c := 1) fun _ => rfl, h.complete_countP (c := 2) fun _ => rfl⟩

theorem FrameSlots.noResponse_transactions {es : List Event} {p : Nat} (h : FrameSlots es (.noResponse p)) :
    1 ≤ p ∧ p ≤ 64 ∧ transactions es = 1 + 8 + 3 * (p - 1) + 2 := by
  obtain ⟨ts, hn, rfl, rfl⟩ := h
  refine ⟨by omega, by omega, ?_⟩
  have head : transactions (.rst true :: writeEvents (byteBits Config.cmdSearchRom)) = 1 + 8 := rfl
  have middle : transactions (ts.flatMap triplet) = 3 * ts.length := countP_triplets (fun _ => rfl) ts
  rw [← List.cons_append, transactions_append, transactions_append, head, middle]
  rfl

/-- A pass's frame raises no outcome: it has only transactions. -/
theorem FrameSlots.outcomes_eq {es : List Event} {e : SearchEnd} (h : FrameSlots es e) : outcomes es = [] := by
  have triplets : ∀ ts : List (Bool × Bool × Bool), outcomes (ts.flatMap triplet) = [] := fun ts => by
    induction ts with
    | nil => rfl
    | cons x xs ih => rw [List.flatMap_cons, outcomes_append, ih]; rfl
  have head : outcomes (.rst true :: writeEvents (byteBits Config.cmdSearchRom)) = [] := rfl
  cases e with
  | absent => rw [h]; rfl
  | noResponse p =>
    obtain ⟨ts, -, -, rfl⟩ := h
    rw [← List.cons_append, outcomes_append, outcomes_append, head, triplets]
    rfl
  | complete =>
    obtain ⟨ts, -, rfl⟩ := h
    rw [← List.cons_append, outcomes_append, head, triplets]
    rfl

/-! ### The end of the loop -/

/-- What the return of DISCOVER_ALL raises (42_enumerator.md R164). -/
def capacityEvents (s : State) : List Event := if capacityExceeded s then [.oc (.capacityExceeded 5)] else []

/-- DISCOVER_ALL returns count, after CAPACITY_EXCEEDED where it holds, and writes nothing else. -/
theorem discoverReturn_eq (s : State) : discoverReturn s =
    { s with trace := s.trace ++ capacityEvents s, result := .count s.count.val, seq := .idle } := by
  unfold discoverReturn capacityEvents
  split
  · rfl
  · rw [List.append_nil]; rfl

/-- The block stands at the loop test of a DISCOVER_ALL that goes on (10_state.md R30). -/
def atLoopTest (s : State) : State := { s with seq := .busy .discoverAll .loopTest }

theorem atLoopTest_trace (s : State) : (atLoopTest s).trace = s.trace := rfl

theorem discoverLoop_goesOn {s : State} (h : loopCond s = true) : discoverLoop s = atLoopTest s := if_pos h

theorem discoverLoop_returns {s : State} (h : loopCond s = false) : discoverLoop s = discoverReturn s := by
  rw [discoverLoop, h]
  rfl

theorem loopCond_eq (s : State) : loopCond s = (!s.search.done && decide (s.count.val < 5)) := rfl

theorem capacityExceeded_eq (s : State) : capacityExceeded s = (!s.search.done && decide (s.count = 5)) := by
  simp only [capacityExceeded, Fin.ext_iff]
  rfl

/-- CAPACITY_EXCEEDED is raised exactly where the table is full and the search unfinished. -/
theorem mem_capacityEvents {s : State} {n : Nat} : Event.oc (.capacityExceeded n) ∈ capacityEvents s ↔
    n = 5 ∧ s.count = 5 ∧ s.search.done = false := by
  unfold capacityEvents
  rw [capacityExceeded_eq]
  cases s.search.done <;> by_cases h : s.count = 5 <;> simp [h]

/-- After events fs without CAPACITY_EXCEEDED, the return raises it exactly where the table is full and the search
unfinished (42_enumerator.md R164). -/
theorem discoverReturn_raises {s v : State} {fs : List Event} (ht : v.trace = s.trace ++ fs)
    (hn : ∀ n, Event.oc (.capacityExceeded n) ∉ fs) :
    ∃ es, (discoverReturn v).trace = s.trace ++ es ∧
      (discoverReturn v).result = .count (discoverReturn v).count.val ∧
      ∀ n, Event.oc (.capacityExceeded n) ∈ es ↔
        n = 5 ∧ (discoverReturn v).count = 5 ∧ (discoverReturn v).search.done = false := by
  rw [discoverReturn_eq]
  exact ⟨fs ++ capacityEvents v, by simp only [ht, List.append_assoc], rfl, fun n => by
    rw [List.mem_append, mem_capacityEvents]
    exact or_iff_right (hn n)⟩

@[simp] theorem discoverLoop_count (s : State) : (discoverLoop s).count = s.count := by
  unfold discoverLoop discoverReturn; split_ifs <;> rfl

@[simp] theorem discoverLoop_samples (s : State) : (discoverLoop s).samples = s.samples := by
  unfold discoverLoop discoverReturn; split_ifs <;> rfl

@[simp] theorem discoverLoop_index (s : State) : (discoverLoop s).index = s.index := by
  unfold discoverLoop discoverReturn; split_ifs <;> rfl

@[simp] theorem discoverLoop_free (s : State) : (discoverLoop s).free = s.free := by
  unfold discoverLoop discoverReturn; split_ifs <;> rfl

/-- The loop test returns count, or goes on with the result as it was (42_enumerator.md R152). -/
theorem discoverLoop_answers (s : State) :
    ((discoverLoop s).seq = .idle ∧ (discoverLoop s).result = .count s.count.val) ∨
      ((discoverLoop s).seq = .busy .discoverAll .loopTest ∧ loopCond (discoverLoop s) = true ∧
        (discoverLoop s).result = s.result) := by
  cases h : loopCond s with
  | true => rw [discoverLoop_goesOn h]; exact .inr ⟨rfl, h, rfl⟩
  | false => rw [discoverLoop_returns h, discoverReturn_eq]; exact .inl ⟨rfl, rfl⟩

/-! ### The turns of the loop -/

/-- The outcome of a pass that fails: two reads of 1 at a position, or a candidate with a wrong CRC
(42_enumerator.md R158, R161). -/
def FailsPass (o : OutcomeEvent) : Prop :=
  (∃ p, 1 ≤ p ∧ p ≤ 64 ∧ o = .searchAbortNoResponse p) ∨ ∃ c d, c ≠ d ∧ o = .searchAbortCrc c d

theorem FailsPass.ne_capacityExceeded {o : OutcomeEvent} (h : FailsPass o) (n : Nat) : o ≠ .capacityExceeded n := by
  rcases h with ⟨p, -, -, rfl⟩ | ⟨c, d, -, rfl⟩ <;> exact nofun

theorem discoverPass_absent {s : State} (h : (searchFrame s).1 = .absent) :
    discoverPass s = discoverReturn (raise .busAbsentDiscover (searchFrame s).2) := by
  simp only [discoverPass, h]

theorem discoverPass_noResponse {s : State} {p : Nat} (h : (searchFrame s).1 = .noResponse p) :
    discoverPass s = discoverLoop (passFailed (raise (.searchAbortNoResponse p) (searchFrame s).2)) := by
  simp only [discoverPass, h]

theorem discoverPass_complete {s : State} (h : (searchFrame s).1 = .complete) :
    discoverPass s = discoverLoop (validate (searchFrame s).2) := by
  simp only [discoverPass, h]

theorem validate_valid {s : State} (h : validId s.search.idBuf = true) : validate s = passSucceeded s := if_pos h

theorem validate_invalid {s : State} (h : validId s.search.idBuf = false) : validate s =
    passFailed (raise (.searchAbortCrc (idCrc s.search.idBuf) (idByte s.search.idBuf 7)) s) := by
  rw [validate, h]
  rfl

/-- What a pass can come to, from the state u at the end of its frame: no presence returns, a failed pass is recorded,
and a successful one appends its candidate; the loop test comes after each of the last two (42_enumerator.md R150). -/
theorem discoverPass_cases (s : State) : ∃ es r u, u = onBus es { s with search := r } ∧
    r.lastDiscrepancy = s.search.lastDiscrepancy ∧ r.done = s.search.done ∧ outcomes es = [] ∧
    (discoverPass s = discoverReturn (raise .busAbsentDiscover u) ∨
      (∃ o, FailsPass o ∧ discoverPass s = discoverLoop (passFailed (raise o u))) ∨
      (validId u.search.idBuf = true ∧ discoverPass s = discoverLoop (passSucceeded u))) := by
  obtain ⟨es, r, he, hl, hd, slots⟩ := searchFrame_slots s
  refine ⟨es, r, (searchFrame s).2, he, hl, hd, slots.outcomes_eq, ?_⟩
  cases h : (searchFrame s).1 with
  | absent => exact .inl (discoverPass_absent h)
  | noResponse p =>
    rw [h] at slots
    obtain ⟨h1, h2, -⟩ := slots.noResponse_transactions
    exact .inr (.inl ⟨_, .inl ⟨p, h1, h2, rfl⟩, discoverPass_noResponse h⟩)
  | complete =>
    rw [discoverPass_complete h]
    cases hv : validId (searchFrame s).2.search.idBuf with
    | true => exact .inr (.inr ⟨rfl, by rw [validate_valid hv]⟩)
    | false =>
      refine .inr (.inl ⟨_, .inr ⟨_, _, ?_, rfl⟩, by rw [validate_invalid hv]⟩)
      simpa [validId] using hv

theorem discoverTurn_eq_discoverPass {s : State} (h : loopCond s = true) : discoverTurn s = discoverPass s := if_pos h

/-- DISCOVER_ALL's first step is the first turn of its loop, on an empty table (42_enumerator.md R151, R152). -/
theorem exec_discoverAll (s : State) :
    exec .discoverAll s = .next (discoverTurn (discoverInit (startOp .discoverAll .discoverAll s))) := rfl

end Sys2Proof.Machine
end

section
/-! CERTIFICATES. The positions, passes and turns of DISCOVER_ALL on any bus (42_enumerator.md). -/

namespace Sys2Proof.Machine

/-- Settles O31: each case is one branch of the rule. -/
theorem directionRule : Obligations.DirectionRule := by
  intro p r
  refine ⟨rfl, rfl, fun h hb => ?_, fun h hb => ?_, fun h => ?_, fun h => ?_⟩
  · simp [chooseDirection, h, hb]
  · simp [chooseDirection, h, hb]
  · simp [chooseDirection, h]
  · simp [chooseDirection, h.not_gt, h.ne']

/-- Settles O32: the slots and the registers of a position, as `searchPosition_eq` gives them. -/
theorem searchPositionEffect : Obligations.SearchPositionEffect := by
  intro p s hp a b d t
  have run := searchPosition_eq p s
  constructor
  · rintro ⟨ha, hb⟩
    simp only [t, run, show s.bus.readBit = true from ha, show s.bus.afterRead.readBit = true from hb, a, b]
    exact ⟨rfl, rfl, rfl⟩
  · intro hab
    have hab : (s.bus.readBit && s.bus.afterRead.readBit) = false := by simpa [a, b] using hab
    have registers : t.search = { s.search with
        p := p, marker := (chooseDirection a b p s.search).2, idBuf := setIdBit s.search.idBuf p.val d } := by
      rw [show t.search = positionSearch s.bus.readBit s.bus.afterRead.readBit p s.search by simp only [t, run]; rfl,
        positionSearch, hab]
      rfl
    have written (q) (h1 : 1 ≤ q) (h2 : q ≤ 64) :
        idBit t.search.idBuf q = if q = p.val then d else idBit s.search.idBuf q := by
      rw [registers]
      exact idBit_setIdBit _ _ _ _ ⟨hp, by omega⟩ ⟨h1, h2⟩
    refine ⟨by rw [run, hab]; rfl, ?_, by rw [registers], ?_, ?_, by rw [registers], by rw [registers]⟩
    · rw [show t.trace = s.trace ++ positionEvents s.bus.readBit s.bus.afterRead.readBit p s.search by
        simp only [t, run]; rfl, positionEvents, hab]
      rfl
    · rw [written p.val hp (by omega), if_pos rfl]
    · intro q h1 h2 hne
      rw [written q h1 h2, if_neg hne]

/-- Settles O33: the slots of the frame are counted by how it ended. -/
theorem passTransactionCounts : Obligations.PassTransactionCounts := by
  intro s
  obtain ⟨es, r, he, -, -, slots⟩ := searchFrame_slots s
  refine ⟨es, congrArg State.trace he, ?_⟩
  revert slots
  cases (searchFrame s).1 with
  | absent => rintro rfl; rfl
  | noResponse p => exact FrameSlots.noResponse_transactions
  | complete => exact FrameSlots.complete_counts

/-- Settles O34: a valid candidate is appended at `count`, and another changes `lastDiscrepancy` and the trace. -/
theorem candidateValidation : Obligations.CandidateValidation := by
  intro s hc
  constructor
  · intro hv
    have entries : ∀ i, tableEntry (passSucceeded s) i = if i = s.count.val then s.search.idBuf else tableEntry s i :=
      tableEntry_appendId s.search.idBuf s hc
    have finished : doneAfter s.search.done s.search.marker = (s.search.done || decide (s.search.marker = 0)) := by
      by_cases hm : s.search.marker = 0
      · simp [doneAfter, hm]
      · simp [doneAfter, hm, Fin.val_eq_zero_iff]
    rw [validate_valid hv]
    exact ⟨appendId_count_val s.search.idBuf s hc, by rw [entries, if_pos rfl],
      fun i hi => by rw [entries, if_neg hi], rfl, finished, rfl, rfl⟩
  · intro hv
    exact validate_invalid hv

/-- Settles O35: the first pass is its reset alone, and the return of an empty table raises nothing more. -/
theorem discoverOnAbsentBus : Obligations.DiscoverOnAbsentBus := by
  intro s h
  have frame := searchFrame_absent (discoverInit (startOp .discoverAll .discoverAll s)) h
  have quiet : ∀ u : State, u.count = 0 → capacityEvents u = [] := fun u hu => by
    simp [capacityEvents, capacityExceeded_eq, hu]
  rw [exec_discoverAll, discoverTurn_eq_discoverPass rfl, discoverPass_absent (congrArg Prod.fst frame), frame,
    discoverReturn_eq, quiet _ rfl]
  simp [onBus, replay_cons, replay_nil, Bus.afterEvent, Pin.afterSlot]

/-- Settles O36: whatever the first pass comes to, the operation returns count or stands at a loop test that goes
on. -/
theorem discoverAllAnswers : Obligations.DiscoverAllAnswers := by
  intro s
  obtain ⟨es, r, u, rfl, -, -, -, pass⟩ := discoverPass_cases (discoverInit (startOp .discoverAll .discoverAll s))
  rw [exec_discoverAll, discoverTurn_eq_discoverPass rfl]
  rcases pass with pass | ⟨o, -, pass⟩ | ⟨-, pass⟩ <;> rw [pass]
  · exact ⟨_, rfl, by rw [discoverReturn_eq]; exact ⟨rfl, rfl, rfl, Nat.zero_le 1, .inl ⟨rfl, rfl⟩⟩⟩
  · refine ⟨_, rfl, ?_⟩
    rw [discoverLoop_samples, discoverLoop_index, discoverLoop_free, discoverLoop_count]
    exact ⟨rfl, rfl, rfl, Nat.zero_le 1, discoverLoop_answers _⟩
  · refine ⟨_, rfl, ?_⟩
    rw [discoverLoop_samples, discoverLoop_index, discoverLoop_free, discoverLoop_count]
    exact ⟨rfl, rfl, rfl, le_refl 1, discoverLoop_answers _⟩

/-- Settles O37: the loop test by its cases; and a turn that ends the operation saw no presence, or appended a
candidate. -/
theorem capacityRule : Obligations.CapacityRule := by
  intro s
  refine ⟨fun hd => ?_, fun hd hc => ?_, fun hd hc => ?_, fun hl hq => ?_⟩
  · rw [discoverLoop_returns (by simp [loopCond_eq, hd]), discoverReturn_eq]
    simp [capacityEvents, capacityExceeded_eq, hd]
  · rw [discoverLoop_returns (by simp [loopCond_eq, hc]), discoverReturn_eq]
    simp [capacityEvents, capacityExceeded_eq, hd, hc]
  · have below : s.count.val < 5 := by omega
    exact discoverLoop_goesOn (by simp [loopCond_eq, hd, below])
  · have below := loopCond_count hl
    obtain ⟨es, r, u, rfl, -, hd, quiet, pass⟩ := discoverPass_cases s
    have frame : ∀ n, Event.oc (.capacityExceeded n) ∉ es := fun n h => by simpa [quiet] using mem_outcomes.mpr h
    rw [discoverTurn_eq_discoverPass hl] at hq ⊢
    rcases pass with pass | ⟨o, -, pass⟩ | ⟨-, pass⟩ <;> rw [pass] at hq ⊢
    · exact discoverReturn_raises (fs := es ++ [Event.oc .busAbsentDiscover])
        (List.append_assoc s.trace es [Event.oc .busAbsentDiscover]) (by simpa using frame)
    · have goesOn : loopCond (passFailed (raise o (onBus es { s with search := r }))) = true := by
        rw [← hl, loopCond_eq, loopCond_eq, ← hd]
        rfl
      rw [discoverLoop_goesOn goesOn] at hq
      cases hq
    · cases hv : loopCond (passSucceeded (onBus es { s with search := r })) with
      | true =>
        rw [discoverLoop_goesOn hv] at hq
        cases hq
      | false =>
        rw [discoverLoop_returns hv]
        exact discoverReturn_raises (fs := es) rfl frame

end Sys2Proof.Machine
end

section
/-! SUPPORT. The order of the search keys, and what a pass is to find (42_enumerator.md R159, R165). -/

namespace Sys2Proof.Machine

/-! ### The order of the search keys -/

/-- Two identifiers have the same bits at the search positions before p. -/
def AgreeBefore (p : Nat) (x y : Identifier) : Prop := ∀ q, 1 ≤ q → q < p → idBit x q = idBit y q

theorem AgreeBefore.symm {p : Nat} {x y : Identifier} (h : AgreeBefore p x y) : AgreeBefore p y x :=
  fun q h1 h2 => (h q h1 h2).symm

theorem AgreeBefore.trans {p : Nat} {x y z : Identifier} (h : AgreeBefore p x y) (g : AgreeBefore p y z) :
    AgreeBefore p x z := fun q h1 h2 => (h q h1 h2).trans (g q h1 h2)

theorem AgreeBefore.mono {p k : Nat} {x y : Identifier} (h : AgreeBefore p x y) (hk : k ≤ p) : AgreeBefore k x y :=
  fun q h1 h2 => h q h1 (by omega)

theorem agreeBefore_succ {p : Nat} (hp : 1 ≤ p) {x y : Identifier} :
    AgreeBefore (p + 1) x y ↔ AgreeBefore p x y ∧ idBit x p = idBit y p := by
  refine ⟨fun h => ⟨h.mono (by omega), h p hp (by omega)⟩, fun ⟨h, hb⟩ q h1 h2 => ?_⟩
  rcases Nat.lt_succ_iff_lt_or_eq.mp h2 with hq | rfl
  · exact h q h1 hq
  · exact hb

theorem eq_of_agreeBefore {x y : Identifier} (h : AgreeBefore 65 x y) : x = y :=
  ext_idBit x y fun p h1 h2 => h p h1 (by omega)

/-- At their first difference, position p, x has 0 and y has 1. -/
structure PrecedesAt (p : Nat) (x y : Identifier) : Prop where
  pos : 1 ≤ p
  le : p ≤ 64
  agree : AgreeBefore p x y
  zero : idBit x p = false
  one : idBit y p = true

/-- The number made of the bits at the first n search positions. -/
def keyTo (n : Nat) (id : Identifier) : Nat :=
  (List.range n).foldl (fun k i => 2 * k + (idBit id (i + 1)).toNat) 0

theorem searchKey_eq_keyTo (id : Identifier) : searchKey id = keyTo 64 id := rfl

theorem keyTo_succ (n : Nat) (id : Identifier) : keyTo (n + 1) id = 2 * keyTo n id + (idBit id (n + 1)).toNat := by
  rw [keyTo, List.range_succ, List.foldl_append]
  rfl

theorem keyTo_eq_of_agreeBefore {n : Nat} {x y : Identifier} (h : AgreeBefore (n + 1) x y) : keyTo n x = keyTo n y := by
  induction n with
  | zero => rfl
  | succ n ih =>
    obtain ⟨before, here⟩ := (agreeBefore_succ (by omega)).mp h
    rw [keyTo_succ, keyTo_succ, ih before, here]

theorem keyTo_lt_of_precedesAt {n p : Nat} {x y : Identifier} (h : PrecedesAt p x y) (hn : p ≤ n) :
    keyTo n x < keyTo n y := by
  obtain ⟨h1, -, before, hx, hy⟩ := h
  induction n, hn using Nat.le_induction with
  | base =>
    obtain ⟨k, rfl⟩ : ∃ k, p = k + 1 := ⟨p - 1, by omega⟩
    rw [keyTo_succ, keyTo_succ, keyTo_eq_of_agreeBefore before, hx, hy]
    simp
  | succ n hn ih =>
    have := Bool.toNat_le (idBit x (n + 1))
    rw [keyTo_succ, keyTo_succ]
    omega

theorem searchKey_lt_of_precedesAt {p : Nat} {x y : Identifier} (h : PrecedesAt p x y) : searchKey x < searchKey y := by
  rw [searchKey_eq_keyTo, searchKey_eq_keyTo]
  exact keyTo_lt_of_precedesAt h h.le

/-- Different identifiers differ at a first position. -/
theorem exists_precedesAt {x y : Identifier} (h : x ≠ y) : ∃ p, PrecedesAt p x y ∨ PrecedesAt p y x := by
  have differ : ∃ p, 1 ≤ p ∧ p ≤ 64 ∧ idBit x p ≠ idBit y p := by
    by_contra nothing
    push Not at nothing
    exact h (ext_idBit x y nothing)
  obtain ⟨h1, h2, hne⟩ := Nat.find_spec differ
  have before : AgreeBefore (Nat.find differ) x y := fun q hq1 hq2 => by
    by_contra hq
    exact Nat.find_min differ hq2 ⟨hq1, by omega, hq⟩
  refine ⟨Nat.find differ, ?_⟩
  cases hx : idBit x (Nat.find differ) with
  | false => exact .inl ⟨h1, h2, before, hx, by simpa [hx] using hne.symm⟩
  | true => exact .inr ⟨h1, h2, before.symm, by simpa [hx] using hne.symm, hx⟩

/-- The order of the keys is decided at the first difference (42_enumerator.md R165). -/
theorem searchKey_lt_iff {x y : Identifier} : searchKey x < searchKey y ↔ ∃ p, PrecedesAt p x y := by
  refine ⟨fun h => ?_, fun ⟨_, h⟩ => searchKey_lt_of_precedesAt h⟩
  obtain ⟨p, hp | hp⟩ := exists_precedesAt (x := x) (y := y) (by rintro rfl; exact lt_irrefl _ h)
  · exact ⟨p, hp⟩
  · exact absurd (searchKey_lt_of_precedesAt hp) (by omega)

theorem searchKey_injective : Function.Injective searchKey := by
  intro x y h
  by_contra hne
  obtain ⟨p, hp | hp⟩ := exists_precedesAt hne
  · exact (searchKey_lt_of_precedesAt hp).ne h
  · exact (searchKey_lt_of_precedesAt hp).ne h.symm

/-! ### Branches of the search tree -/

/-- At position p the search of m takes 1 where 0 is open too: another identifier agrees with m before p and has 0
there. -/
def BranchAt (ids : List Identifier) (m : Identifier) (p : Nat) : Prop := ∃ r ∈ ids, PrecedesAt p r m

/-- The marker of a search of m, before position p: the last branch that was taken, or 0 if there was none
(42_enumerator.md R155, R159). -/
structure LastBranch (ids : List Identifier) (m : Identifier) (p : Nat) (marker : Fin 65) : Prop where
  isBranch : marker ≠ 0 → marker.val < p ∧ BranchAt ids m marker.val
  isLast : ∀ q, marker.val < q → q < p → ¬BranchAt ids m q

theorem LastBranch.branch {ids : List Identifier} {m : Identifier} {p : Fin 65} (h : BranchAt ids m p.val) :
    LastBranch ids m (p.val + 1) p :=
  ⟨fun _ => ⟨by omega, h⟩, fun q h1 h2 => by omega⟩

theorem LastBranch.noBranch {ids : List Identifier} {m : Identifier} {p : Nat} {marker : Fin 65}
    (h : LastBranch ids m p marker) (hp : ¬BranchAt ids m p) : LastBranch ids m (p + 1) marker := by
  refine ⟨fun h0 => ?_, fun q h1 h2 => ?_⟩
  · obtain ⟨hlt, hb⟩ := h.isBranch h0
    exact ⟨by omega, hb⟩
  · rcases Nat.lt_succ_iff_lt_or_eq.mp h2 with hq | rfl
    · exact h.isLast q h1 hq
    · exact hp

/-! ### What a pass is to find -/

/-- What the direction rule steers to with `lastDiscrepancy` and the identifier found last: it agrees with that one
before `lastDiscrepancy`, has 0 there, and after it takes 1 wherever it can (42_enumerator.md R159). -/
structure PassFinds (ids : List Identifier) (last : Identifier) (lastDiscrepancy : Fin 65) (m : Identifier) : Prop where
  mem : m ∈ ids
  replays : ∀ q, 1 ≤ q → q < lastDiscrepancy.val → idBit m q = idBit last q
  deferred : lastDiscrepancy ≠ 0 → idBit m lastDiscrepancy.val = false
  greedy : ∀ p, lastDiscrepancy.val < p → ∀ r ∈ ids, ¬PrecedesAt p m r

/-- A first pass finds the greatest key. -/
theorem passFinds_greatest {ids : List Identifier} {m last : Identifier} (hm : m ∈ ids)
    (greatest : ∀ r ∈ ids, searchKey r ≤ searchKey m) : PassFinds ids last 0 m where
  mem := hm
  replays := fun q _ h2 => absurd h2 (Nat.not_lt_zero q)
  deferred := fun h => absurd rfl h
  greedy := fun _ _ r hr h => absurd (searchKey_lt_of_precedesAt h) (greatest r hr).not_gt

/-- After the pass that found `last`, the next one finds the next smaller key. -/
theorem passFinds_next {ids : List Identifier} {m last : Identifier} {marker : Fin 65} (hm : m ∈ ids)
    (less : searchKey m < searchKey last)
    (next : ∀ r ∈ ids, searchKey r < searchKey last → searchKey r ≤ searchKey m)
    (branch : LastBranch ids last 65 marker) : marker ≠ 0 ∧ PassFinds ids last marker m := by
  obtain ⟨p, hp⟩ := searchKey_lt_iff.mp less
  obtain ⟨h1, h2, before, hm0, hl1⟩ := hp
  have upto : p ≤ marker.val := by
    by_contra h
    exact branch.isLast p (by omega) (by omega) ⟨m, hm, h1, h2, before, hm0, hl1⟩
  have taken : marker ≠ 0 := by
    rintro rfl
    simp at upto
    omega
  obtain ⟨-, w, hw, w1, w2, wbefore, wbit, lbit⟩ := branch.isBranch taken
  have here : p = marker.val := by
    by_contra h
    have hlt : p < marker.val := by omega
    have above : PrecedesAt p m w :=
      ⟨h1, h2, before.trans (wbefore.symm.mono hlt.le), hm0, (wbefore p h1 hlt).trans hl1⟩
    have := next w hw (searchKey_lt_of_precedesAt ⟨w1, w2, wbefore, wbit, lbit⟩)
    exact absurd (searchKey_lt_of_precedesAt above) this.not_gt
  subst here
  refine ⟨taken, hm, fun q hq1 hq2 => before q hq1 hq2, fun _ => hm0, fun q hq r hr above => ?_⟩
  have smaller : PrecedesAt marker.val r last :=
    ⟨h1, h2, (above.agree.symm.mono hq.le).trans before, (above.agree _ h1 hq).symm.trans hm0, lbit⟩
  exact absurd (searchKey_lt_of_precedesAt above) (next r hr (searchKey_lt_of_precedesAt smaller)).not_gt

/-- The pass that finds the least key takes no branch. -/
theorem LastBranch.eq_zero {ids : List Identifier} {m : Identifier} {marker : Fin 65} (h : LastBranch ids m 65 marker)
    (least : ∀ r ∈ ids, searchKey m ≤ searchKey r) : marker = 0 := by
  by_contra h0
  obtain ⟨-, r, hr, below⟩ := h.isBranch h0
  exact absurd (searchKey_lt_of_precedesAt below) (least r hr).not_gt

/-! ### The direction rule on the way to an identifier -/

/-- What the search registers hold before position p of a pass that finds m: `idBuf` holds m before p and the
identifier found last from p on, and the marker is the last branch taken. -/
structure OnTheWay (ids : List Identifier) (last : Identifier) (lastDiscrepancy : Fin 65) (m : Identifier) (p : Nat)
    (r : Search) : Prop where
  lastDiscrepancy : r.lastDiscrepancy = lastDiscrepancy
  taken : AgreeBefore p r.idBuf m
  ahead : ∀ q, p ≤ q → q ≤ 64 → idBit r.idBuf q = idBit last q
  marker : LastBranch ids m p r.marker

/-- The two reads of position p: a is 1 where every identifier that agrees with m so far has 1, and b where every one
has 0 (42_enumerator.md R156). -/
structure Reads (ids : List Identifier) (m : Identifier) (p : Nat) (a b : Bool) : Prop where
  true_iff : a = true ↔ ∀ r ∈ ids, AgreeBefore p r m → idBit r p = true
  complement_iff : b = true ↔ ∀ r ∈ ids, AgreeBefore p r m → idBit r p = false

theorem Reads.not_both {ids : List Identifier} {m : Identifier} {p : Nat} {a b : Bool} (h : Reads ids m p a b)
    (hm : m ∈ ids) : (a && b) = false := by
  by_contra hab
  obtain ⟨ha, hb⟩ := Bool.and_eq_true_iff.mp (Bool.not_eq_false _ ▸ hab)
  have h1 := h.true_iff.mp ha m hm fun _ _ _ => rfl
  have h0 := h.complement_iff.mp hb m hm fun _ _ _ => rfl
  rw [h1] at h0
  cases h0

/-- Where the identifiers that are left agree, the direction is their bit, and there is no branch (42_enumerator.md
R157). -/
theorem Reads.agreement {ids : List Identifier} {m : Identifier} {p : Nat} {a b : Bool} (h : Reads ids m p a b)
    (hm : m ∈ ids) (hab : a ≠ b) : a = idBit m p ∧ ¬BranchAt ids m p := by
  cases a with
  | true =>
    have all := h.true_iff.mp rfl
    refine ⟨(all m hm fun _ _ _ => rfl).symm, ?_⟩
    rintro ⟨r, hr, -, -, before, hb, -⟩
    rw [all r hr before] at hb
    cases hb
  | false =>
    have all := h.complement_iff.mp (by simpa using hab)
    have hm0 := all m hm fun _ _ _ => rfl
    refine ⟨hm0.symm, ?_⟩
    rintro ⟨r, hr, -, -, -, -, h1⟩
    rw [hm0] at h1
    cases h1

/-- Where both reads are 0, identifiers of both kinds are left (42_enumerator.md R159). -/
theorem Reads.discrepancy {ids : List Identifier} {m : Identifier} {p : Nat} (h : Reads ids m p false false) :
    (∃ r ∈ ids, AgreeBefore p r m ∧ idBit r p = false) ∧ ∃ r ∈ ids, AgreeBefore p r m ∧ idBit r p = true := by
  constructor
  · by_contra nothing
    push Not at nothing
    exact absurd (h.true_iff.mpr fun r hr hb => by simpa using nothing r hr hb) nofun
  · by_contra nothing
    push Not at nothing
    exact absurd (h.complement_iff.mpr fun r hr hb => by simpa using nothing r hr hb) nofun

/-- The direction rule takes the bit of the identifier the pass is to find, and keeps the marker the last branch
(42_enumerator.md R157, R159). -/
theorem chooseDirection_onTheWay {ids : List Identifier} {last m : Identifier} {L p : Fin 65} {r : Search} {a b : Bool}
    (finds : PassFinds ids last L m) (way : OnTheWay ids last L m p.val r) (hp : 1 ≤ p.val)
    (reads : Reads ids m p.val a b) :
    (chooseDirection a b p r).1 = idBit m p.val ∧ LastBranch ids m (p.val + 1) (chooseDirection a b p r).2 := by
  unfold chooseDirection
  by_cases hab : a = b
  · subst hab
    have both : a = false := by simpa using reads.not_both finds.mem
    subst both
    obtain ⟨⟨r0, hr0, before0, bit0⟩, r1, hr1, before1, bit1⟩ := reads.discrepancy
    have takes1 (h : idBit m p.val = true) : true = idBit m p.val ∧ LastBranch ids m (p.val + 1) p :=
      ⟨h.symm, .branch ⟨r0, hr0, hp, by omega, before0, bit0, h⟩⟩
    have takes0 (h : idBit m p.val = false) : false = idBit m p.val ∧ LastBranch ids m (p.val + 1) r.marker :=
      ⟨h.symm, way.marker.noBranch fun ⟨_, _, _, _, _, _, h1⟩ => by rw [h] at h1; cases h1⟩
    simp only [ne_eq, not_true, if_false, way.lastDiscrepancy]
    rcases lt_trichotomy p L with before | rfl | after
    · have replayed : idBit r.idBuf p.val = idBit m p.val :=
        (way.ahead _ (le_refl _) (by omega)).trans (finds.replays _ hp before).symm
      rw [if_pos before, replayed]
      cases hm : idBit m p.val with
      | true => exact ⟨rfl, (takes1 hm).2⟩
      | false => exact ⟨rfl, (takes0 hm).2⟩
    · rw [if_neg (lt_irrefl p), if_pos rfl]
      exact takes0 (finds.deferred (by rintro rfl; exact absurd hp (by decide)))
    · rw [if_neg after.not_gt, if_neg after.ne']
      refine takes1 ?_
      by_contra h
      exact finds.greedy _ after r1 hr1 ⟨hp, by omega, before1.symm, by simpa using h, bit1⟩
  · obtain ⟨agreed, noBranch⟩ := reads.agreement finds.mem hab
    rw [if_pos hab]
    exact ⟨agreed, way.marker.noBranch noBranch⟩

/-- A position that is taken on the way leads one position further. -/
theorem OnTheWay.position {ids : List Identifier} {last m : Identifier} {L p : Fin 65} {r : Search} {a b : Bool}
    (way : OnTheWay ids last L m p.val r) (finds : PassFinds ids last L m) (hp : 1 ≤ p.val)
    (reads : Reads ids m p.val a b) : OnTheWay ids last L m (p.val + 1) (positionSearch a b p r) := by
  obtain ⟨direction, marker⟩ := chooseDirection_onTheWay finds way hp reads
  have written : ∀ q, 1 ≤ q → q ≤ 64 → idBit (setIdBit r.idBuf p.val (idBit m p.val)) q =
      if q = p.val then idBit m p.val else idBit r.idBuf q :=
    fun q h1 h2 => idBit_setIdBit _ _ _ _ ⟨hp, by omega⟩ ⟨h1, h2⟩
  simp only [positionSearch, reads.not_both finds.mem, Bool.false_eq_true, if_false, direction]
  refine ⟨way.lastDiscrepancy, fun q h1 h2 => ?_, fun q h1 h2 => ?_, marker⟩
  · rw [written q h1 (by omega)]
    split
    · next h => rw [h]
    · exact way.taken q h1 (by omega)
  · rw [written q (by omega) h2, if_neg (by omega)]
    exact way.ahead q (by omega) h2

/-- After the last position the candidate is the identifier that the pass was to find. -/
theorem OnTheWay.idBuf_eq {ids : List Identifier} {last m : Identifier} {L : Fin 65} {r : Search}
    (h : OnTheWay ids last L m 65 r) : r.idBuf = m := eq_of_agreeBefore h.taken

end Sys2Proof.Machine
end

section
/-! SUPPORT. Passes that take all their positions: on a line stuck low, and on a stable bus of reference devices, where
the pass finds the identifier the direction rule steers to (42_enumerator.md R165, R166; 60_exceptions.md R245 to
R252). -/

namespace Sys2Proof.Machine

/-! ### Positions one after the other -/

/-- Where P holds before a position, its reads are not both 1, and P holds before the next one, of the bus and of the
search registers (42_enumerator.md R156 to R160). -/
def KeptByPositions (P : Nat → Bus → Search → Prop) : Prop :=
  ∀ (p : Fin 65) (b : Bus) (r : Search), 1 ≤ p.val → P p.val b r →
    (b.readBit && b.afterRead.readBit) = false ∧
      P (p.val + 1) (b.afterRead.afterRead.afterWrite (chooseDirection b.readBit b.afterRead.readBit p r).1)
        (positionSearch b.readBit b.afterRead.readBit p r)

/-- What the positions keep holds at the end of a pass, and all its positions are taken. -/
theorem searchPositions_complete {P : Nat → Bus → Search → Prop} (taken : KeptByPositions P)
    (n : Nat) (hn : n ≤ 64) (s : State) (h : P (65 - n) s.bus s.search) :
    (searchPositions n s).1 = .complete ∧ P 65 (searchPositions n s).2.bus (searchPositions n s).2.search := by
  induction n generalizing s with
  | zero => exact ⟨rfl, h⟩
  | succ n ih =>
    have hp := positionIndex n (by omega)
    rw [searchPositions]
    simp only [searchPosition_eq]
    generalize Fin.ofNat 65 (Config.idBits - n) = p at hp ⊢
    obtain ⟨hab, after⟩ := taken p s.bus s.search (by omega) (by rwa [hp, ← Nat.add_sub_add_right 64 1 n])
    simp only [hab, Bool.not_false, if_true]
    refine ih (by omega) _ ?_
    rw [show 65 - n = p.val + 1 by omega]
    simp only [positionEvents, hab, Bool.false_eq_true, if_false]
    exact after

/-- The same of a whole frame that sees presence: it holds at the end if it holds after the byte 0xF0. -/
theorem searchFrame_complete {P : Nat → Bus → Search → Prop} (taken : KeptByPositions P) {s : State}
    (present : s.bus.presenceBit = true)
    (started : P 1 (s.bus.afterReset.replay (writeEvents (byteBits Config.cmdSearchRom)))
      { s.search with marker := 0 }) :
    (searchFrame s).1 = .complete ∧ P 65 (searchFrame s).2.bus (searchFrame s).2.search := by
  rw [searchFrame_present s present]
  refine searchPositions_complete taken 64 (le_refl _) _ ?_
  rw [searchStart_eq]
  exact started

/-! ### Reference devices that answer for themselves -/

/-- Reference devices under the given line fault answer, with no scripted answer, and P holds of their identifiers and
protocol states. -/
structure Bus.Populated (f : LineFault) (P : List (Identifier × DeviceState) → Prop) (b : Bus) : Prop where
  unscripted : b.script = []
  devices : ∃ ds, b.population = .reference ds f ∧ P (ds.map Device.view)

/-- The conversions that land at the end of a transaction change nothing of this. -/
theorem populated_tick {f : LineFault} {P : List (Identifier × DeviceState) → Prop} {b : Bus} {ds : List Device}
    (hs : b.script = []) (hp : b.population = .reference ds f) (h : P (ds.map Device.view)) : b.tick.Populated f P := by
  obtain ⟨es, he, hv⟩ := tick_reference b ds f hp
  exact ⟨hs, es, he, hv ▸ h⟩

theorem presenceBit_unscripted {b : Bus} {ds : List Device} {f : LineFault} (hs : b.script = [])
    (hp : b.population = .reference ds f) : b.presenceBit = presence ds f := by
  simp only [Bus.presenceBit, Bus.answer, hs, hp]

theorem readBit_unscripted {b : Bus} {ds : List Device} {f : LineFault} (hs : b.script = [])
    (hp : b.population = .reference ds f) : b.readBit = lineValue true ds f := by
  simp only [Bus.readBit, Bus.answer, hs, hp]

/-! ### A line stuck low (60_exceptions.md R245) -/

/-- The line is stuck low, with no scripted answer. -/
abbrev Bus.StuckLow (b : Bus) : Prop := b.Populated .stuckLow fun _ => True

theorem Bus.StuckLow.presenceBit {b : Bus} (h : b.StuckLow) : b.presenceBit = true := by
  obtain ⟨hs, ds, hp, -⟩ := h
  exact presenceBit_unscripted hs hp

theorem Bus.StuckLow.readBit {b : Bus} (h : b.StuckLow) : b.readBit = false := by
  obtain ⟨hs, ds, hp, -⟩ := h
  exact readBit_unscripted hs hp

theorem Bus.StuckLow.afterReset {b : Bus} (h : b.StuckLow) : b.afterReset.StuckLow := by
  obtain ⟨hs, ds, hp, -⟩ := h
  exact populated_tick (congrArg List.tail hs) (congrArg Population.reset hp) trivial

theorem Bus.StuckLow.afterRead {b : Bus} (h : b.StuckLow) : b.afterRead.StuckLow := by
  obtain ⟨hs, ds, hp, -⟩ := h
  exact populated_tick (congrArg List.tail hs) (congrArg (Population.slot true) hp) trivial

theorem Bus.StuckLow.afterWrite {b : Bus} (h : b.StuckLow) (v : Bool) : (b.afterWrite v).StuckLow := by
  obtain ⟨hs, ds, hp, -⟩ := h
  exact populated_tick hs (congrArg (Population.slot v) hp) trivial

theorem Bus.StuckLow.replay_writes {b : Bus} (h : b.StuckLow) (bs : List Bool) :
    (b.replay (writeEvents bs)).StuckLow := by
  induction bs generalizing b with
  | nil => exact h
  | cons x xs ih => exact ih (h.afterWrite x)

/-- The state of a DISCOVER_ALL before a pass on a line stuck low. -/
structure Stuck (s : State) : Prop where
  bus : s.bus.StuckLow
  count : s.count = 0
  done : s.search.done = false
  lastDiscrepancy : s.search.lastDiscrepancy = 0

/-- The candidate of every pass on a line stuck low. -/
def allOnes : Identifier := Vector.replicate 8 0xFF

theorem idBit_allOnes {p : Nat} (h1 : 1 ≤ p) (h2 : p ≤ 64) : idBit allOnes p = true := by
  have byte : idByte allOnes ((p - 1) / 8) = 0xFF := by simp [idByte, allOnes, show (p - 1) / 8 < 8 by omega]
  have bits : ∀ k < 8, (0xFF : Byte).getLsbD k = true := by decide
  rw [idBit, byte]
  exact bits _ (Nat.mod_lt _ (by decide))

theorem validId_allOnes : validId allOnes = false := by decide +kernel

/-- Before position p of a pass on a line stuck low, 1 was taken at every position. -/
structure StuckAt (p : Nat) (b : Bus) (r : Search) : Prop where
  bus : b.StuckLow
  lastDiscrepancy : r.lastDiscrepancy = 0
  ones : ∀ q, 1 ≤ q → q < p → idBit r.idBuf q = true

/-- On a line stuck low every position is a discrepancy, at which a pass without `lastDiscrepancy` takes 1. -/
theorem keptByPositions_stuckAt : KeptByPositions StuckAt := by
  intro p b r hp h
  have hp0 : p ≠ 0 := by rintro rfl; exact absurd hp (by decide)
  have chosen : chooseDirection false false p r = (true, p) := by simp [chooseDirection, h.lastDiscrepancy, hp0]
  rw [h.bus.readBit, h.bus.afterRead.readBit, chosen]
  refine ⟨rfl, h.bus.afterRead.afterRead.afterWrite true, h.lastDiscrepancy, fun q h1 h2 => ?_⟩
  simp only [positionSearch, chosen, Bool.and_self, Bool.false_eq_true, if_false]
  rw [idBit_setIdBit _ _ _ _ ⟨hp, by omega⟩ ⟨h1, by omega⟩]
  split
  · rfl
  · exact h.ones q h1 (by omega)

/-- So the candidate of every pass is all ones. -/
theorem searchFrame_stuck {s : State} (h : Stuck s) : (searchFrame s).1 = .complete ∧
    (searchFrame s).2.bus.StuckLow ∧ (searchFrame s).2.search.idBuf = allOnes := by
  obtain ⟨complete, ended⟩ := searchFrame_complete keptByPositions_stuckAt h.bus.presenceBit
    ⟨h.bus.afterReset.replay_writes _, h.lastDiscrepancy, fun q h1 h2 => by omega⟩
  exact ⟨complete, ended.bus,
    ext_idBit _ _ fun p h1 h2 => by rw [ended.ones p h1 (by omega), idBit_allOnes h1 h2]⟩

/-- Such a pass fails its CRC, and the operation goes on as it was before the pass (42_enumerator.md R162, R166). -/
theorem discoverTurn_stuck {s : State} (h : Stuck s) : ∃ t, discoverTurn s = atLoopTest t ∧ Stuck t ∧
    t.agenda = s.agenda ∧ t.pendingReset = s.pendingReset := by
  obtain ⟨complete, bus, candidate⟩ := searchFrame_stuck h
  obtain ⟨es, r, frame, -, hd, -⟩ := searchFrame_slots s
  have below : loopCond s = true := by simp [loopCond_eq, h.done, h.count]
  have failed := validate_invalid (s := (searchFrame s).2) (by rw [candidate, validId_allOnes])
  have stuck : Stuck (validate (searchFrame s).2) := by
    rw [failed]
    exact ⟨bus, by rw [frame]; exact h.count, by rw [frame]; exact hd.trans h.done, rfl⟩
  refine ⟨_, ?_, stuck, by rw [failed, frame]; rfl, by rw [failed, frame]; rfl⟩
  rw [discoverTurn_eq_discoverPass below, discoverPass_complete complete, discoverLoop_goesOn]
  simp [loopCond_eq, stuck.done, stuck.count]

/-! ### A stable bus (42_enumerator.md R165) -/

/-- The identifiers on the bus are those of the list, and Q holds of each device's identifier and protocol state. -/
def Attached (ids : List Identifier) (Q : Identifier → DeviceState → Prop) (vs : List (Identifier × DeviceState)) :
    Prop :=
  (∀ r, r ∈ vs.map Prod.fst ↔ r ∈ ids) ∧ ∀ v ∈ vs, Q v.1 v.2

/-- A faultless line with reference devices of the given identifiers and no scripted answer. -/
abbrev Bus.Holds (ids : List Identifier) (Q : Identifier → DeviceState → Prop) (b : Bus) : Prop :=
  b.Populated .noFault (Attached ids Q)

section
variable {ids : List Identifier} {Q Q' : Identifier → DeviceState → Prop} {b : Bus}

theorem Bus.Holds.imp (h : b.Holds ids Q) (hq : ∀ r st, Q r st → Q' r st) : b.Holds ids Q' := by
  obtain ⟨hs, ds, hp, hids, hv⟩ := h
  exact ⟨hs, ds, hp, hids, fun v hm => hq _ _ (hv v hm)⟩

/-- What a step does to each device, it does to the devices of the bus. -/
theorem Attached.map {ds : List Device} {g : Device → Device} (h : Attached ids Q (ds.map Device.view))
    (rom : ∀ d, (g d).rom = d.rom) (st : ∀ d, Q d.rom d.st → Q' d.rom (g d).st) :
    Attached ids Q' ((ds.map g).map Device.view) := by
  obtain ⟨hids, hv⟩ := h
  refine ⟨fun r => ?_, fun v hm => ?_⟩
  · rw [← hids r]
    simp [Device.view, Function.comp_def, rom]
  · obtain ⟨-, ⟨d, hd, rfl⟩, rfl⟩ : ∃ e, (∃ d ∈ ds, g d = e) ∧ e.view = v := by simpa using hm
    simpa only [Device.view, rom] using st d (hv _ (List.mem_map_of_mem hd))

theorem compare_rom (d : Device) (p : Nat) (line : Bool) (next : DeviceState) :
    (d.compare p line next).rom = d.rom := by
  unfold Device.compare
  split_ifs <;> rfl

/-- No slot changes a device's identifier. -/
theorem slot_rom (d : Device) (line : Bool) : (d.slot line).rom = d.rom := by
  unfold Device.slot
  cases d.st with
  | romCmd k acc => dsimp only; split_ifs <;> rfl
  | search p ph =>
    cases ph with
    | trueBit | complement => rfl
    | direction => exact compare_rom ..
  | matching p => exact compare_rom ..
  | func k acc =>
    dsimp only
    split_ifs
    · exact congrArg Prod.fst (funcDispatch_view d _)
    · rfl
  | readSp k | inactive => rfl

theorem foldl_slot_rom (bs : List Bool) (d : Device) : (bs.foldl Device.slot d).rom = d.rom := by
  induction bs generalizing d with
  | nil => rfl
  | cons x xs ih => exact (ih _).trans (slot_rom d x)

theorem Bus.Holds.presenceBit (h : b.Holds ids Q) (hne : ids ≠ []) : b.presenceBit = true := by
  obtain ⟨hs, ds, hp, hids, -⟩ := h
  rw [presenceBit_unscripted hs hp]
  cases ds with
  | nil => exact absurd (List.eq_nil_iff_forall_not_mem.mpr fun r hr => by simpa using (hids r).mpr hr) hne
  | cons d ds => rfl

/-- A reset makes every device wait for a ROM command (60_exceptions.md R248). -/
theorem Bus.Holds.afterReset (h : b.Holds ids Q) : b.afterReset.Holds ids fun _ st => st = .romCmd 0 0 := by
  obtain ⟨hs, ds, hp, hv⟩ := h
  exact populated_tick (congrArg List.tail hs) (congrArg Population.reset hp) (hv.map (fun _ => rfl) fun _ _ => rfl)

/-- A read slot answers 1 where every device puts out 1 (60_exceptions.md R249). -/
theorem Bus.Holds.readBit {out : Identifier → Prop} (h : b.Holds ids Q)
    (hout : ∀ d : Device, Q d.rom d.st → (d.output = true ↔ out d.rom)) :
    b.readBit = true ↔ ∀ r ∈ ids, out r := by
  obtain ⟨hs, ds, hp, hids, hv⟩ := h
  have line : lineValue true ds .noFault = true ↔ ∀ d ∈ ds, d.output = true := by simp [lineValue, wiredAnd]
  rw [readBit_unscripted hs hp, line]
  refine ⟨fun h r hr => ?_, fun h d hd => ?_⟩
  · obtain ⟨d, hd, rfl⟩ : ∃ d ∈ ds, d.rom = r := by simpa [Device.view] using (hids r).mpr hr
    exact (hout d (hv _ (List.mem_map_of_mem hd))).mp (h d hd)
  · have known : d.rom ∈ ids := (hids _).mp (List.mem_map_of_mem (f := Prod.fst) (List.mem_map_of_mem hd))
    exact (hout d (hv _ (List.mem_map_of_mem hd))).mpr (h _ known)

theorem Bus.Holds.afterRead (h : b.Holds ids Q) (next : ∀ (d : Device) line, Q d.rom d.st → Q' d.rom (d.slot line).st) :
    b.afterRead.Holds ids Q' := by
  obtain ⟨hs, ds, hp, hv⟩ := h
  exact populated_tick (congrArg List.tail hs) (congrArg (Population.slot true) hp)
    (hv.map (slot_rom · _) fun d => next d _)

/-- While no device puts out 0, each takes the bit that is written (60_exceptions.md R249). -/
theorem Bus.Holds.afterWrite {v : Bool} (h : b.Holds ids Q) (quiet : ∀ d : Device, Q d.rom d.st → d.output = true)
    (next : ∀ d : Device, Q d.rom d.st → Q' d.rom (d.slot v).st) : (b.afterWrite v).Holds ids Q' := by
  obtain ⟨hs, ds, hp, hv⟩ := h
  have line : lineValue v ds .noFault = v :=
    lineValue_quiet v ds fun d hd => quiet d (hv.2 _ (List.mem_map_of_mem hd))
  refine populated_tick hs (congrArg (Population.slot v) hp) ?_
  rw [slotDevices, line]
  exact hv.map (slot_rom · _) next

end

/-- A device that still takes the bits of a ROM command byte only listens (60_exceptions.md R250). -/
theorem listening_romBits (bs : List Bool) {d : Device} {k : Nat} {acc : Byte} (h : d.st = .romCmd k acc)
    (hk : k + bs.length < 8) : (bs.foldl Device.slot d).st.listening = true := by
  induction bs generalizing d k acc with
  | nil => rw [List.foldl_nil, h]; rfl
  | cons x xs ih =>
    rw [List.length_cons] at hk
    refine ih (k := k + 1) (acc := putBit acc k x) ?_ (by omega)
    simp only [Device.slot, h]
    rw [if_neg (by omega)]

theorem replay_writes_script (bs : List Bool) (b : Bus) : (b.replay (writeEvents bs)).script = b.script := by
  induction bs generalizing b with
  | nil => rfl
  | cons x xs ih => exact ih (b.afterWrite x)

/-- Devices that wait for a ROM command take the byte that is written (60_exceptions.md R250, R251). -/
theorem Bus.Holds.romCommand {ids : List Identifier} {b : Bus} (h : b.Holds ids fun _ st => st = .romCmd 0 0)
    (v : Byte) : (b.replay (writeEvents (byteBits v))).Holds ids fun _ st => st = romDispatch v := by
  obtain ⟨hs, ds, hp, hids, hv⟩ := h
  have waits : ∀ d ∈ ds, d.st = .romCmd 0 0 := fun d hd => hv _ (List.mem_map_of_mem hd)
  obtain ⟨es, he, hviews⟩ := replay_writes_views (byteBits v) b ds hp fun d hd n hn =>
    listening_romBits _ (waits d hd) (by
      rw [List.length_take, Nat.zero_add]
      exact (min_le_left ..).trans_lt hn)
  refine ⟨(replay_writes_script _ b).trans hs, es, he, ?_⟩
  have taken := Attached.map (Q := fun _ st => st = .romCmd 0 0) (Q' := fun _ st => st = romDispatch v) ⟨hids, hv⟩
    (foldl_slot_rom (byteBits v)) fun d hd => congrArg Device.st (slot_romByte d v hd)
  rw [List.map_map] at taken
  rw [hviews]
  exact taken

/-! ### The devices in a pass that finds m -/

/-- The devices that agree with m before position p are in the state st, and the others have dropped out
(60_exceptions.md R252). -/
def Selected (m : Identifier) (p : Nat) (selected : DeviceState) (r : Identifier) (st : DeviceState) : Prop :=
  (AgreeBefore p r m → st = selected) ∧ (¬AgreeBefore p r m → st = .inactive)

/-- The state in which a device that takes part comes to position p, or to the end of the pass. -/
def positionState (p : Nat) : DeviceState := if p ≤ 64 then .search p .trueBit else .func 0 0

section
variable {m : Identifier} {p : Nat} {st st' : DeviceState} {d : Device}

theorem Selected.output_iff {out : Prop} (h : Selected m p st d.rom d.st)
    (active : d.st = st → (d.output = true ↔ out)) : d.output = true ↔ (AgreeBefore p d.rom m → out) := by
  by_cases ha : AgreeBefore p d.rom m
  · exact (active (h.1 ha)).trans ⟨fun ho _ => ho, fun ho => ho ha⟩
  · exact iff_of_true (output_of_listening d (by rw [h.2 ha]; rfl)) fun hb => absurd hb ha

theorem Selected.slot {line : Bool} (h : Selected m p st d.rom d.st) (active : d.st = st → (d.slot line).st = st') :
    Selected m p st' d.rom (d.slot line).st :=
  ⟨fun ha => active (h.1 ha), fun ha => (congrArg Device.st (slot_inactive [line] d (h.2 ha))).trans (h.2 ha)⟩

/-- In the direction slot the devices whose bit is another drop out (60_exceptions.md R252). -/
theorem Selected.direction (h : Selected m p (.search p .direction) d.rom d.st) (hp : 1 ≤ p) :
    Selected m (p + 1) (positionState (p + 1)) d.rom (d.slot (idBit m p)).st := by
  by_cases ha : AgreeBefore p d.rom m
  · have moved : d.slot (idBit m p) = d.compare p (idBit m p) (.search (p + 1) .trueBit) := by
      rw [Device.slot, h.1 ha]
    rw [moved, Device.compare]
    refine ⟨fun hn => ?_, fun hn => ?_⟩
    · have same := ((agreeBefore_succ hp).mp hn).2
      rw [if_neg (by simp [same]), positionState, Config.idBits]
      by_cases hlast : p < 64
      · rw [if_pos hlast, if_pos (by omega)]
      · rw [if_neg hlast, if_neg (by omega)]
    · have other : idBit m p ≠ idBit d.rom p := fun hb => hn ((agreeBefore_succ hp).mpr ⟨ha, hb.symm⟩)
      rw [if_pos other]
  · have out : d.slot (idBit m p) = d := slot_inactive [idBit m p] d (h.2 ha)
    rw [out]
    exact ⟨fun hn => absurd (hn.mono (by omega)) ha, fun _ => h.2 ha⟩

variable {ids : List Identifier} {b : Bus}

/-- The two reads of a position, and the devices after them (42_enumerator.md R156; 60_exceptions.md R252). -/
theorem Bus.Holds.reads (h : b.Holds ids (Selected m p (.search p .trueBit))) :
    Reads ids m p b.readBit b.afterRead.readBit ∧
      b.afterRead.afterRead.Holds ids (Selected m p (.search p .direction)) := by
  have second : b.afterRead.Holds ids (Selected m p (.search p .complement)) :=
    h.afterRead fun d line hd => hd.slot fun hst => by simp only [Device.slot, hst]
  refine ⟨⟨h.readBit fun d hd => hd.output_iff fun hst => ?_, second.readBit fun d hd => hd.output_iff fun hst => ?_⟩,
    second.afterRead fun d line hd => hd.slot fun hst => by simp only [Device.slot, hst]⟩
  · simp only [Device.output, hst]
  · simp only [Device.output, hst, Bool.not_eq_true']

/-- The write of m's bit at a position. -/
theorem Bus.Holds.direction (h : b.Holds ids (Selected m p (.search p .direction))) (hp : 1 ≤ p) :
    (b.afterWrite (idBit m p)).Holds ids (Selected m (p + 1) (positionState (p + 1))) :=
  h.afterWrite
    (fun d hd => (hd.output_iff (out := True) fun hst => by simp only [Device.output, hst]).mpr fun _ => trivial)
    fun _ hd => hd.direction hp

end

/-- Before position p of a pass that finds m on a stable bus: the devices and the search registers are on the way. -/
structure FindsAt (ids : List Identifier) (last : Identifier) (lastDiscrepancy : Fin 65) (m : Identifier) (p : Nat)
    (b : Bus) (r : Search) : Prop where
  devices : b.Holds ids (Selected m p (positionState p))
  way : OnTheWay ids last lastDiscrepancy m p r

theorem keptByPositions_findsAt {ids : List Identifier} {last m : Identifier} {L : Fin 65}
    (finds : PassFinds ids last L m) : KeptByPositions (FindsAt ids last L m) := by
  rintro p b r hp ⟨devices, way⟩
  rw [positionState, if_pos (by omega)] at devices
  obtain ⟨reads, listening⟩ := devices.reads
  rw [(chooseDirection_onTheWay finds way hp reads).1]
  exact ⟨reads.not_both finds.mem, listening.direction hp, way.position finds hp reads⟩

/-- A pass begins with every device taking part, and nothing taken. -/
theorem onTheWay_start (ids : List Identifier) (m : Identifier) (r : Search) :
    OnTheWay ids r.idBuf r.lastDiscrepancy m 1 { r with marker := 0 } where
  lastDiscrepancy := rfl
  taken := fun q h1 h2 => by omega
  ahead := fun _ _ _ => rfl
  marker := ⟨fun h0 => absurd rfl h0, fun q h1 h2 => absurd h1 (by omega)⟩

/-- On a stable bus a pass is complete and finds the identifier the direction rule steers to; its marker is the last
branch (42_enumerator.md R165). -/
theorem searchFrame_finds {s : State} {ids : List Identifier} {m : Identifier}
    (bus : s.bus.Holds ids fun _ _ => True)
    (finds : PassFinds ids s.search.idBuf s.search.lastDiscrepancy m) :
    (searchFrame s).1 = .complete ∧ (searchFrame s).2.bus.Holds ids (fun _ _ => True) ∧
      (searchFrame s).2.search.idBuf = m ∧ LastBranch ids m 65 (searchFrame s).2.search.marker := by
  have started := (bus.afterReset.romCommand Config.cmdSearchRom).imp (Q' := Selected m 1 (positionState 1))
    fun r st hst => ⟨fun _ => hst, fun ha => absurd (fun q h1 h2 => by omega) ha⟩
  obtain ⟨complete, ended⟩ := searchFrame_complete (keptByPositions_findsAt finds)
    (bus.presenceBit (List.ne_nil_of_mem finds.mem)) ⟨started, onTheWay_start ids m s.search⟩
  exact ⟨complete, ended.devices.imp fun _ _ _ => trivial, ended.way.idBuf_eq, ended.way.marker⟩

end Sys2Proof.Machine
end

section
/-! SUPPORT. DISCOVER_ALL from pass to pass on a stable bus (42_enumerator.md R164 to R166). -/

namespace Sys2Proof.Machine

/-! ### The identifiers in the order of discovery -/

/-- The identifiers of a stable bus in the order in which DISCOVER_ALL finds them: valid, and in decreasing order of
the search key (42_enumerator.md R165). -/
structure InOrder (ids : List Identifier) : Prop where
  descending : ids.Pairwise fun x y => searchKey y < searchKey x
  valid : ∀ id ∈ ids, validId id = true

/-- The identifier after m has the greatest of the smaller keys. -/
theorem InOrder.next {found rest : List Identifier} {m n : Identifier} (h : InOrder (found ++ m :: n :: rest)) :
    searchKey n < searchKey m ∧
      ∀ r ∈ found ++ m :: n :: rest, searchKey r < searchKey m → searchKey r ≤ searchKey n := by
  obtain ⟨-, hm, above⟩ := List.pairwise_append.mp h.descending
  obtain ⟨afterM, afterN⟩ := List.pairwise_cons.mp hm
  refine ⟨afterM n List.mem_cons_self, fun r hr less => ?_⟩
  rcases List.mem_append.mp hr with hr | hr
  · exact absurd (above r hr m List.mem_cons_self) less.not_gt
  · rcases List.mem_cons.mp hr with rfl | hr
    · exact absurd less (lt_irrefl _)
    · rcases List.mem_cons.mp hr with rfl | hr
      · exact le_refl _
      · exact ((List.pairwise_cons.mp afterN).1 r hr).le

/-- The last identifier has the least key. -/
theorem InOrder.least {found : List Identifier} {m : Identifier} (h : InOrder (found ++ [m])) :
    ∀ r ∈ found ++ [m], searchKey m ≤ searchKey r := by
  obtain ⟨-, -, above⟩ := List.pairwise_append.mp h.descending
  intro r hr
  rcases List.mem_append.mp hr with hr | hr
  · exact (above r hr m List.mem_cons_self).le
  · rw [List.mem_singleton.mp hr]

/-- The first identifier has the greatest key. -/
theorem InOrder.greatest {rest : List Identifier} {m : Identifier} (h : InOrder (m :: rest)) :
    ∀ r ∈ m :: rest, searchKey r ≤ searchKey m := by
  intro r hr
  rcases List.mem_cons.mp hr with rfl | hr
  · exact le_refl _
  · exact ((List.pairwise_cons.mp h.descending).1 r hr).le

/-- The marker of the pass that found m tells whether an identifier is left, and leads to the next one. -/
theorem LastBranch.leadsOn {found rest : List Identifier} {m : Identifier} {marker : Fin 65}
    (branch : LastBranch (found ++ m :: rest) m 65 marker) (order : InOrder (found ++ m :: rest)) :
    (marker = 0 ↔ rest = []) ∧ ∀ n rest', rest = n :: rest' → PassFinds (found ++ m :: rest) m marker n := by
  cases rest with
  | nil => exact ⟨iff_of_true (branch.eq_zero order.least) rfl, nofun⟩
  | cons n rest' =>
    obtain ⟨less, next⟩ := order.next
    obtain ⟨taken, finds⟩ := passFinds_next (by simp) less next branch
    refine ⟨iff_of_false taken nofun, ?_⟩
    rintro _ _ ⟨⟩
    exact finds

/-! ### One pass -/

/-- The state of a DISCOVER_ALL on a stable bus between two passes: the identifiers found stand in the table, in order,
the search is finished where none is left, and else the next pass finds the next one. -/
structure Discovering (found rest : List Identifier) (s : State) : Prop where
  bus : s.bus.Holds (found ++ rest) fun _ _ => True
  count : s.count.val = found.length
  table : s.table.toList.take found.length = found
  done : s.search.done = true ↔ rest = []
  next : ∀ m rest', rest = m :: rest' →
    PassFinds (found ++ rest) s.search.idBuf s.search.lastDiscrepancy m

/-- Appending an identifier at the end of those that a table holds. -/
theorem take_table_append (table : Vector Identifier 5) (id : Identifier) {n : Nat} (hn : n < 5) :
    (table.setIfInBounds n id).toList.take (n + 1) = table.toList.take n ++ [id] := by
  have inside : n < table.toList.length := table.length_toList.symm ▸ hn
  rw [Vector.toList_setIfInBounds, List.set_eq_take_append_cons_drop, if_pos inside]
  rw [List.append_cons]
  exact List.take_left' (by simp; omega)

/-- A pass finds the next identifier and appends it (42_enumerator.md R163, R165, R169). -/
theorem Discovering.pass {found rest : List Identifier} {m : Identifier} {s : State}
    (order : InOrder (found ++ m :: rest)) (h : Discovering found (m :: rest) s) (room : found.length < 5) :
    ∃ t es, discoverTurn s = discoverLoop t ∧ Discovering (found ++ [m]) rest t ∧ t.trace = s.trace ++ es ∧
      transactions es = 201 ∧ outcomes es = [] ∧ t.agenda = s.agenda ∧ t.pendingReset = s.pendingReset := by
  obtain ⟨complete, bus, candidate, branch⟩ := searchFrame_finds h.bus (h.next m rest rfl)
  obtain ⟨es, r, frame, -, hd, slots⟩ := searchFrame_slots s
  rw [complete] at slots
  have unfinished : s.search.done = false := Bool.eq_false_iff.mpr fun hd => absurd (h.done.mp hd) nofun
  have goesOn : loopCond s = true := by simp [loopCond_eq, unfinished, h.count, room]
  have appended : validate (searchFrame s).2 = passSucceeded (searchFrame s).2 :=
    validate_valid (by rw [candidate]; exact order.valid m (by simp))
  have below : (searchFrame s).2.count.val < 5 := by rw [searchFrame_count, h.count]; exact room
  have stillUnfinished : (searchFrame s).2.search.done = false := by rw [frame]; exact hd.trans unfinished
  obtain ⟨leftOver, next⟩ := branch.leadsOn order
  have ids : found ++ m :: rest = found ++ [m] ++ rest := List.append_cons ..
  refine ⟨passSucceeded (searchFrame s).2, es, ?_, ⟨ids ▸ bus, ?_, ?_, ?_, ?_⟩, by rw [passSucceeded_trace, frame]; rfl,
    slots.complete_counts.1, slots.outcomes_eq, by rw [passSucceeded_agenda, frame]; rfl,
    by rw [passSucceeded_pendingReset, frame]; rfl⟩
  · rw [discoverTurn_eq_discoverPass goesOn, discoverPass_complete complete, appended]
  · rw [List.length_append, List.length_singleton, ← h.count, ← searchFrame_count s]
    exact appendId_count_val (searchFrame s).2.search.idBuf _ below
  · rw [passSucceeded_table, candidate, searchFrame_count, h.count, List.length_append, List.length_singleton,
      take_table_append _ _ room, frame]
    exact congrArg (· ++ [m]) h.table
  · rw [← leftOver, passSucceeded_search]
    simp [doneAfter, stillUnfinished, Fin.val_eq_zero_iff]
  · rw [← ids, passSucceeded_search, candidate]
    exact next

/-! ### The end of the operation -/

/-- With identifiers left and room in the table the operation goes on. -/
theorem Discovering.goesOn {found rest : List Identifier} {s : State} (h : Discovering found rest s) (left : rest ≠ [])
    (room : found.length < 5) : discoverLoop s = atLoopTest s := by
  have unfinished : s.search.done = false := Bool.eq_false_iff.mpr fun hd => left (h.done.mp hd)
  exact discoverLoop_goesOn (by simp [loopCond_eq, unfinished, h.count, room])

/-- What DISCOVER_ALL raises at its return on a stable bus of n devices (42_enumerator.md R164). -/
def overflowEvents (n : Nat) : List Event := if 5 < n then [.oc (.capacityExceeded 5)] else []

theorem transactions_overflowEvents (n : Nat) : transactions (overflowEvents n) = 0 := by
  unfold overflowEvents; split <;> rfl

theorem outcomes_overflowEvents (n : Nat) :
    outcomes (overflowEvents n) = if 5 < n then [.capacityExceeded 5] else [] := by
  unfold overflowEvents; split <;> rfl

/-- With none left or a full table the operation returns their number, and raises CAPACITY_EXCEEDED where there are more
than five (42_enumerator.md R164). -/
theorem Discovering.returns {found rest : List Identifier} {s : State} (h : Discovering found rest s)
    (ended : rest = [] ∨ found.length = 5) (fits : found.length ≤ 5) : discoverLoop s = { s with
      trace := s.trace ++ overflowEvents (found ++ rest).length
      result := .count s.count.val
      seq := .idle } := by
  have finished : loopCond s = false := by
    rcases ended with hr | hc
    · simp [loopCond_eq, h.done.mpr hr]
    · simp [loopCond_eq, h.count, hc]
  have full : capacityExceeded s = true ↔ 5 < (found ++ rest).length := by
    have five : s.count = 5 ↔ found.length = 5 := by rw [← h.count]; exact Fin.ext_iff
    rw [List.length_append, capacityExceeded_eq, Bool.and_eq_true, Bool.not_eq_true', decide_eq_true_iff,
      ← Bool.not_eq_true, h.done, five]
    cases rest with
    | nil => simpa using fits
    | cons m rest =>
      have five := ended.resolve_left nofun
      exact iff_of_true ⟨nofun, five⟩ (by rw [five, List.length_cons]; omega)
  rw [discoverLoop_returns finished, discoverReturn_eq, capacityEvents, if_congr full rfl rfl]
  rfl

/-- The entries of the table are the identifiers found. -/
theorem Discovering.entry {found rest : List Identifier} {s : State} (h : Discovering found rest s) {i : Nat}
    {id : Identifier} (hi : found[i]? = some id) : tableEntry s i = id := by
  obtain ⟨inside, -⟩ := List.getElem?_eq_some_iff.mp hi
  rw [← h.table, List.getElem?_take_of_lt inside] at hi
  rw [tableEntry, ← Vector.getElem?_toList, hi, Option.getD_some]

/-- The agents let the operation go on: no move is left to make, and no block reset is pending. -/
def Undisturbed (s : State) : Prop := s.agenda = [] ∧ s.pendingReset = none

/-- An undisturbed step of a DISCOVER_ALL at its loop test is the next turn (log 2). -/
theorem step_atLoopTest {s : State} (h : Undisturbed s) :
    step (atLoopTest s) = .next (discoverTurn (atLoopTest s)) := by
  have noMove : (atLoopTest s).agenda = [] := h.1
  rw [step_of_busy rfl, busyStep, noMove]
  exact congrArg _ (landReset_of_none h.2 _)

theorem runSteps_atLoopTest {s : State} (n : Nat) (h : Undisturbed s) :
    runSteps (n + 1) (atLoopTest s) = runSteps n (discoverTurn (atLoopTest s)) := by
  rw [runSteps, step_atLoopTest h]

theorem Discovering.atLoopTest {found rest : List Identifier} {s : State} (h : Discovering found rest s) :
    Discovering found rest (atLoopTest s) := ⟨h.bus, h.count, h.table, h.done, h.next⟩

/-- Where passes are left to make, there is room in the table, and an identifier to find. -/
theorem exists_next {found rest : List Identifier} {n : Nat}
    (hn : found.length + (n + 1) = min (found ++ rest).length 5) :
    found.length < 5 ∧ ∃ m rest', rest = m :: rest' := by
  refine ⟨by omega, List.exists_cons_of_ne_nil ?_⟩
  rintro rfl
  rw [List.append_nil] at hn
  omega

/-- All passes of a DISCOVER_ALL on a stable bus: each finds one identifier, until none is left or the table is full
(42_enumerator.md R166). -/
theorem Discovering.run (n : Nat) {found rest : List Identifier} {s : State} (order : InOrder (found ++ rest))
    (h : Discovering found rest s) (hn : found.length + (n + 1) = min (found ++ rest).length 5) (calm : Undisturbed s) :
    ∃ found' rest' t es, found' ++ rest' = found ++ rest ∧ found'.length = min (found ++ rest).length 5 ∧
      Discovering found' rest' t ∧ runSteps n (discoverTurn s) = .next (discoverLoop t) ∧
      t.trace = s.trace ++ es ∧ transactions es = 201 * (n + 1) ∧ outcomes es = [] := by
  induction n generalizing found rest s with
  | zero =>
    obtain ⟨room, m, rest, rfl⟩ := exists_next hn
    obtain ⟨t, es, turn, after, trace, count, quiet, -⟩ := h.pass order room
    exact ⟨_, rest, t, es, (List.append_cons ..).symm, by simpa using hn, after, by rw [turn]; rfl, trace, count, quiet⟩
  | succ n ih =>
    obtain ⟨room, m, rest, rfl⟩ := exists_next hn
    obtain ⟨t, es, turn, after, trace, count, quiet, agenda, pending⟩ := h.pass order room
    rw [List.append_cons] at order hn ⊢
    have more : (found ++ [m]).length + (n + 1) = min (found ++ [m] ++ rest).length 5 := by
      rw [← hn, List.length_append, List.length_singleton]
      omega
    obtain ⟨room', n', rest', left⟩ := exists_next more
    have goesOn := after.goesOn (left ▸ nofun) room'
    have calm' : Undisturbed t := ⟨agenda.trans calm.1, pending.trans calm.2⟩
    obtain ⟨found', rest', u, fs, same, len, last, run, trace', count', quiet'⟩ :=
      ih order after.atLoopTest more calm'
    refine ⟨found', rest', u, es ++ fs, same, len, last, ?_, ?_, ?_, ?_⟩
    · rw [turn, goesOn, runSteps_atLoopTest n calm', run]
    · rw [trace', ← List.append_assoc, ← trace]
      rfl
    · rw [transactions_append, count, count']
      omega
    · rw [outcomes_append, quiet, quiet']
      rfl

/-! ### The start of the operation -/

/-- A faultless line with reference devices and no scripted answer. -/
theorem holds_of_reference {s : State} {ds : List Device} {ids : List Identifier}
    (population : s.bus.population = .reference ds .noFault) (unscripted : s.bus.script = [])
    (same : ∀ r, r ∈ ds.map Device.rom ↔ r ∈ ids) : s.bus.Holds ids fun _ _ => True :=
  ⟨unscripted, ds, population, fun r => by rw [← same r, List.map_map]; rfl, fun _ _ => trivial⟩

/-- Step 1 of DISCOVER_ALL: nothing is found yet, and the first pass finds the greatest key (42_enumerator.md R151). -/
theorem discovering_start {s : State} {m : Identifier} {rest : List Identifier}
    (bus : s.bus.Holds (m :: rest) fun _ _ => True) (order : InOrder (m :: rest)) :
    Discovering [] (m :: rest) (discoverInit (startOp .discoverAll .discoverAll s)) where
  bus := bus
  count := rfl
  table := rfl
  done := iff_of_false nofun nofun
  next := by
    rintro _ _ ⟨⟩
    exact passFinds_greatest List.mem_cons_self order.greatest

/-- The identifiers in decreasing order of the search key. -/
def byKey (ids : List Identifier) : List Identifier := ids.mergeSort fun x y => decide (searchKey y ≤ searchKey x)

theorem byKey_perm (ids : List Identifier) : (byKey ids).Perm ids := List.mergeSort_perm ..

/-- Different identifiers have different keys, so their order by key is strict. -/
theorem byKey_descending {ids : List Identifier} (h : ids.Nodup) :
    (byKey ids).Pairwise fun x y => searchKey y < searchKey x := by
  have sorted : (byKey ids).Pairwise fun x y => decide (searchKey y ≤ searchKey x) = true :=
    List.pairwise_mergeSort (fun a b c hab hbc => by simp only [decide_eq_true_eq] at *; omega)
      (fun a b => by simp only [Bool.or_eq_true, decide_eq_true_eq]; omega) ids
  refine (sorted.and ((byKey_perm ids).nodup_iff.mpr h)).imp fun ⟨hle, hne⟩ => ?_
  exact lt_of_le_of_ne (of_decide_eq_true hle) fun he => hne (searchKey_injective he).symm

theorem inOrder_byKey {ids : List Identifier} (distinct : ids.Nodup) (valid : ∀ id ∈ ids, validId id = true) :
    InOrder (byKey ids) :=
  ⟨byKey_descending distinct, fun id hid => valid id ((byKey_perm ids).mem_iff.mp hid)⟩

end Sys2Proof.Machine
end

section
/-! CERTIFICATES. DISCOVER_ALL on a stable bus and on a line stuck low (42_enumerator.md R165, R166). -/

namespace Sys2Proof.Machine

/-- Settles O39: the one pass leaves no identifier to find. -/
theorem oneDeviceDiscovered : Obligations.OneDeviceDiscovered := by
  intro s d population unscripted valid
  have order : InOrder [d.rom] := ⟨List.pairwise_singleton .., by simpa using valid⟩
  have start := discovering_start (holds_of_reference population unscripted fun _ => Iff.rfl) order
  obtain ⟨t, es, turn, found, trace, count, quiet, -⟩ := start.pass order (by decide)
  have returned : discoverLoop t = { t with result := .count 1, seq := .idle } := by
    simpa [found.count, overflowEvents] using found.returns (.inl rfl) (Nat.le_add_left 1 4)
  refine ⟨discoverLoop t, .op .discoverAll :: es, (exec_discoverAll s).trans (by rw [turn]), ?_⟩
  rw [returned]
  exact ⟨rfl, rfl, Fin.ext found.count, found.entry rfl, by simp [trace], count, quiet⟩

/-- Settles O40: the first pass finds the greater key and goes on, and the second finds the other. -/
theorem twoDevicesDiscovered : Obligations.TwoDevicesDiscovered := by
  intro s d e population unscripted hd he less noMove noReset
  have order : InOrder [d.rom, e.rom] := ⟨by simpa using less, by simp [hd, he]⟩
  have start := discovering_start (holds_of_reference population unscripted fun _ => Iff.rfl) order
  obtain ⟨t, es, turn, found, trace, count, quiet, agenda, pending⟩ := start.pass order (by decide)
  have goesOn := found.goesOn nofun (by simp)
  obtain ⟨u, fs, turn', last, trace', count', quiet', -⟩ := found.atLoopTest.pass order (by simp)
  have returned : discoverLoop u = { u with result := .count 2, seq := .idle } := by
    simpa [last.count, overflowEvents] using last.returns (.inl rfl) (by simp)
  refine ⟨atLoopTest t, discoverLoop u, .op .discoverAll :: (es ++ fs),
    (exec_discoverAll s).trans (by rw [turn, goesOn]), rfl, Fin.ext found.count, ?_, ?_⟩
  · rw [step_atLoopTest ⟨agenda.trans noMove, pending.trans noReset⟩, turn']
  · have sum : transactions (es ++ fs) = 402 := by rw [transactions_append, count, count']
    have noOutcome : outcomes (es ++ fs) = [] := by rw [outcomes_append, quiet, quiet', List.append_nil]
    have whole : u.trace = s.trace ++ .op .discoverAll :: (es ++ fs) := by
      rw [trace', atLoopTest_trace, trace]
      simp
    rw [returned]
    exact ⟨rfl, rfl, Fin.ext last.count, last.entry rfl, last.entry rfl, whole, sum, noOutcome⟩

/-- Settles O41: the passes go through the identifiers in the order of their keys. -/
theorem stableBusDiscovery : Obligations.StableBusDiscovery := by
  intro s ds population unscripted ne valid distinct noMove noReset
  have nodup : (ds.map Device.rom).Nodup := List.pairwise_map.mpr distinct
  have order := inOrder_byKey nodup (by simpa using valid)
  have known : ∀ r, r ∈ ds.map Device.rom ↔ r ∈ byKey (ds.map Device.rom) := fun r => (byKey_perm _).mem_iff.symm
  have size : (byKey (ds.map Device.rom)).length = ds.length := by rw [(byKey_perm _).length_eq, List.length_map]
  generalize byKey (ds.map Device.rom) = ids at order known size
  have occupied : 0 < ds.length := List.length_pos_of_ne_nil ne
  obtain ⟨m, rest, rfl⟩ : ∃ m rest, ids = m :: rest := List.exists_cons_of_length_pos (size ▸ occupied)
  have start := discovering_start (holds_of_reference population unscripted known) order
  obtain ⟨found, left, t, es, same, len, last, run, trace, count, quiet⟩ :=
    start.run (min ds.length 5 - 1) order (by rw [List.nil_append, size, List.length_nil]; omega) ⟨noMove, noReset⟩
  rw [List.nil_append] at same len
  rw [size] at len
  have total : found.length + left.length = ds.length := by rw [← List.length_append, same, size]
  have ended : left = [] ∨ found.length = 5 := by
    rw [← List.length_eq_zero_iff]
    omega
  have returned := last.returns ended (by omega)
  rw [same, size] at returned
  rw [← same] at order known
  obtain ⟨descending, -, above⟩ := List.pairwise_append.mp order.descending
  have fullTable : t.table.toList.take t.count.val = found := by rw [last.count]; exact last.table
  refine ⟨_, discoverLoop t, .op .discoverAll :: (es ++ overflowEvents ds.length), exec_discoverAll s, run, ?_⟩
  have sum : transactions (es ++ overflowEvents ds.length) = 201 * min ds.length 5 := by
    rw [transactions_append, transactions_overflowEvents, count]
    omega
  have raised : outcomes (es ++ overflowEvents ds.length) = if 5 < ds.length then [.capacityExceeded 5] else [] := by
    rw [outcomes_append, quiet, outcomes_overflowEvents, List.nil_append]
  rw [returned]
  refine ⟨rfl, last.count.trans len, rfl, by simp [trace], sum, raised, ?_⟩
  dsimp only
  rw [fullTable]
  refine ⟨List.pairwise_map.mpr descending, fun id hid => ?_, fun d hd hn id hid => ?_⟩
  · simpa using (known id).mpr (List.mem_append_left _ hid)
  · have attached := (known d.rom).mp (List.mem_map_of_mem hd)
    exact above id hid d.rom ((List.mem_append.mp attached).resolve_left hn)

/-- The turns of a DISCOVER_ALL on a line stuck low: each leaves it as it was (42_enumerator.md R166). -/
theorem Stuck.run (n : Nat) {s : State} (h : Stuck s) (calm : Undisturbed s) : ∃ u,
    runSteps n (discoverTurn s) = .next u ∧ u.seq = .busy .discoverAll .loopTest ∧ u.count = 0 := by
  induction n generalizing s with
  | zero =>
    obtain ⟨t, turn, stuck, -⟩ := discoverTurn_stuck h
    exact ⟨_, rfl, by rw [turn]; rfl, by rw [turn]; exact stuck.count⟩
  | succ n ih =>
    obtain ⟨t, turn, stuck, agenda, pending⟩ := discoverTurn_stuck h
    have calm' : Undisturbed t := ⟨agenda.trans calm.1, pending.trans calm.2⟩
    rw [turn, runSteps_atLoopTest n calm']
    exact ih (s := atLoopTest t) ⟨stuck.bus, stuck.count, stuck.done, stuck.lastDiscrepancy⟩ calm'

/-- Settles O42: every pass fails its CRC, and leaves the search at its beginning. -/
theorem stuckLineHangsDiscovery : Obligations.StuckLineHangsDiscovery := by
  intro s ds n population unscripted noMove noReset
  have start : Stuck (discoverInit (startOp .discoverAll .discoverAll s)) :=
    ⟨⟨unscripted, ds, population, trivial⟩, rfl, rfl, rfl⟩
  obtain ⟨u, run, busy, empty⟩ := start.run n ⟨noMove, noReset⟩
  exact ⟨_, u, exec_discoverAll s, run, busy, empty⟩

end Sys2Proof.Machine
end

section
/-! SUPPORT. The cycles of SAMPLE_ALL on any bus: the events of one, what the complete ones before a device did, and
how the loop can end (43_sampler.md R180 to R187). -/

namespace Sys2Proof.Machine

/-! ### The slots of a frame, by kind -/

/-- The events are that many resets, write slots and read slots, and no outcome is among them. -/
structure Tally (es : List Event) (r w d : Nat) : Prop where
  resets : resets es = r
  writes : writes es = w
  reads : reads es = d
  outcomes : outcomes es = []

/-- A transaction is a reset, a write slot or a read slot (20_memory.md R52). -/
theorem transactions_eq (es : List Event) : transactions es = resets es + writes es + reads es := by
  induction es with
  | nil => rfl
  | cons e es ih =>
    have head : transactions [e] = resets [e] + writes [e] + reads [e] := by cases e <;> rfl
    rw [resets_cons, writes_cons, reads_cons, ← List.singleton_append, transactions_append, ih, head]
    ring

theorem Tally.transactions {es : List Event} {r w d : Nat} (h : Tally es r w d) : transactions es = r + w + d := by
  rw [transactions_eq, h.resets, h.writes, h.reads]

theorem Tally.append {es fs : List Event} {r w d r' w' d' : Nat} (h : Tally es r w d) (g : Tally fs r' w' d') :
    Tally (es ++ fs) (r + r') (w + w') (d + d') where
  resets := List.countP_append.trans (congrArg₂ _ h.resets g.resets)
  writes := List.countP_append.trans (congrArg₂ _ h.writes g.writes)
  reads := List.countP_append.trans (congrArg₂ _ h.reads g.reads)
  outcomes := by rw [outcomes_append, h.outcomes, g.outcomes, List.nil_append]

/-- A last reset without presence, and the outcome it raises. -/
theorem tally_abort {es : List Event} {r w d : Nat} (h : Tally es r w d) (o : OutcomeEvent) :
    outcomes (es ++ [.rst false, .oc o]) = [o] ∧ transactions (es ++ [.rst false, .oc o]) = r + w + d + 1 := by
  rw [outcomes_append, h.outcomes, transactions_append, h.transactions]
  exact ⟨rfl, rfl⟩

theorem tally_nil : Tally [] 0 0 0 := ⟨rfl, rfl, rfl, rfl⟩

theorem tally_rst (p : Bool) : Tally [.rst p] 1 0 0 := ⟨rfl, rfl, rfl, rfl⟩

theorem tally_writes (bs : List Bool) : Tally (writeEvents bs) 0 bs.length 0 := by
  induction bs with
  | nil => exact tally_nil
  | cons x xs ih =>
    have head : Tally [.w x] 0 1 0 := ⟨rfl, rfl, rfl, rfl⟩
    rw [List.length_cons, Nat.add_comm]
    exact head.append ih

theorem tally_reads (bs : List Bool) : Tally (bs.map Event.r) 0 0 bs.length := by
  induction bs with
  | nil => exact tally_nil
  | cons x xs ih =>
    have head : Tally [.r x] 0 0 1 := ⟨rfl, rfl, rfl, rfl⟩
    rw [List.length_cons, Nat.add_comm]
    exact head.append ih

/-- The bits of an identifier are those of its search positions, in order (20_memory.md R51; 43_sampler.md R182). -/
theorem idBits_eq (id : Identifier) : idBits id = (List.range 64).map fun q => idBit id (q + 1) := by
  have bytes : id.toList = (List.range 8).map (idByte id) := by
    refine List.ext_getElem (by simp) fun i hi _ => ?_
    have hi' : i < 8 := by simpa using hi
    simp [idByte, hi']
  rw [idBits, bytes]
  rfl

theorem length_idBits (id : Identifier) : (idBits id).length = 64 := by simp [idBits_eq]

/-- A frame that sees presence: its reset, MATCH_ROM with the identifier, and the function command byte
(30_encoding.md R93 to R95). -/
theorem commandEvents_present {b : Bus} (h : b.presenceBit = true) (cmd : Byte) (id : Identifier) :
    commandEvents cmd id b =
      [.rst true] ++ writeEvents (byteBits Config.cmdMatchRom) ++ writeEvents (idBits id) ++
        writeEvents (byteBits cmd) := by
  simp [commandEvents, matchFrameEvents, matchEvents, h]

theorem tally_commandEvents {b : Bus} (h : b.presenceBit = true) (cmd : Byte) (id : Identifier) :
    Tally (commandEvents cmd id b) 1 80 0 := by
  have bits := tally_writes (idBits id)
  rw [length_idBits] at bits
  rw [commandEvents_present h]
  exact (((tally_rst true).append (tally_writes (byteBits Config.cmdMatchRom))).append bits).append
    (tally_writes (byteBits cmd))

theorem readFrameEvents_present {b : Bus} (h : b.presenceBit = true) (id : Identifier) :
    readFrameEvents id b =
      commandEvents Config.cmdReadScratchpad id b ++ (frameAnswers id b).map Event.r := by
  rw [readFrameEvents, if_pos h]

theorem convertFrameEvents_present {b : Bus} (h : b.presenceBit = true) (id : Identifier) :
    convertFrameEvents id b = commandEvents Config.cmdConvertT id b := by
  rw [convertFrameEvents, if_pos h]

/-- A Read Scratchpad frame that sees presence is 97 transactions (43_sampler.md R186). -/
theorem tally_readFrameEvents {b : Bus} (h : b.presenceBit = true) (id : Identifier) :
    Tally (readFrameEvents id b) 1 80 16 := by
  have answers := tally_reads (frameAnswers id b)
  rw [frameAnswers, reads_length] at answers
  rw [readFrameEvents_present h]
  exact (tally_commandEvents h _ id).append answers

/-- A cycle whose two resets see presence is 178 transactions (43_sampler.md R186). -/
theorem tally_cycleEvents {b : Bus} {id : Identifier} (h : b.presenceBit = true)
    (h' : (b.replay (readFrameEvents id b)).presenceBit = true) : Tally (cycleEvents id b) 2 160 16 := by
  rw [cycleEvents, convertFrameEvents_present h']
  exact (tally_readFrameEvents h id).append (tally_commandEvents h' _ id)

theorem cyclesEvents_append (xs ys : List Identifier) (b : Bus) :
    cyclesEvents (xs ++ ys) b = cyclesEvents xs b ++ cyclesEvents ys (b.replay (cyclesEvents xs b)) := by
  induction xs generalizing b with
  | nil => rfl
  | cons x xs ih => simp only [List.cons_append, cyclesEvents, ih, replay_append, List.append_assoc]

/-- The entries of the table up to j, and entry j. -/
theorem take_table_succ (s : State) {j : Nat} (hj : j < 5) :
    s.table.toList.take (j + 1) = s.table.toList.take j ++ [tableEntry s j] := by
  have entry : s.table.toList[j]'(by simpa using hj) = tableEntry s j := by simp [tableEntry, hj]
  rw [← entry, List.take_append_getElem]

theorem cyclesEvents_take_succ (s : State) {j : Nat} (hj : j < 5) :
    cyclesEvents (s.table.toList.take (j + 1)) s.bus =
      cyclesEvents (s.table.toList.take j) s.bus ++ cycleEvents (tableEntry s j) (busAtCycle s j) := by
  rw [take_table_succ s hj, cyclesEvents_append]
  exact congrArg (_ ++ ·) (List.append_nil _)

/-! ### One device -/

/-- The bus where the Convert T frame of device i begins, if every reset before it saw presence. -/
def busAtConvert (s : State) (i : Nat) : Bus :=
  (busAtCycle s i).replay (readFrameEvents (tableEntry s i) (busAtCycle s i))

theorem raise_onBus (o : OutcomeEvent) (es : List Event) (s : State) :
    raise o (onBus es s) = onBus (es ++ [.oc o]) s := onBus_append es [.oc o] s

/-- With no presence at the first reset, the cycle is that reset and the outcome (43_sampler.md R183). -/
theorem sampleDevice_absentAtRead {i : Nat} {s : State} (h : s.bus.presenceBit = false) :
    sampleDevice i s = (false, onBus [.rst false, .oc (.busAbsentSample i .read)] (atIndex i s)) := by
  simp [sampleDevice, readFrame_eq, readFrameEvents, h, raise_onBus]

/-- With presence at the first reset, the sample is stored, and the second reset decides (43_sampler.md R183,
R184). -/
theorem sampleDevice_present {i : Nat} {s : State} (h : s.bus.presenceBit = true) :
    sampleDevice i s =
      let id := tableEntry s i
      let t := setSample i (sampleOfBits (frameAnswers id s.bus)) (onBus (readFrameEvents id s.bus) (atIndex i s))
      if t.bus.presenceBit then (true, onBus (convertFrameEvents id t.bus) t)
      else (false, onBus [.rst false, .oc (.busAbsentSample i .convert)] t) := by
  have read : readFrame i (atIndex i s) = (true, setSample i (sampleOfBits (frameAnswers (tableEntry s i) s.bus))
      (onBus (readFrameEvents (tableEntry s i) s.bus) (atIndex i s))) := by
    rw [readFrame_eq, atIndex_bus, h]
    rfl
  simp only [sampleDevice, read, if_true, convertFrame_eq]
  generalize hu : setSample i (sampleOfBits (frameAnswers (tableEntry s i) s.bus)) _ = u
  have entry : tableEntry u i = tableEntry s i := by rw [← hu]; rfl
  rw [entry]
  cases hc : u.bus.presenceBit with
  | true => rfl
  | false => simp [convertFrameEvents, hc, raise_onBus]

/-! ### The devices one after the other -/

/-- From s to t the events es were performed, and nothing else happened that SAMPLE_ALL may not do: it writes slots,
the frame index and the pin. -/
structure Sampled (es : List Event) (s t : State) : Prop extends Did es s t where
  table : t.table = s.table
  count : t.count = s.count
  search : t.search = s.search
  free : t.free = s.free

theorem sampled_refl (s : State) : Sampled [] s s := ⟨did_refl s, rfl, rfl, rfl, rfl⟩

theorem sampled_onBus (es : List Event) (i : Nat) (s : State) : Sampled es s (onBus es (atIndex i s)) :=
  ⟨⟨rfl, rfl, rfl, rfl, rfl, rfl⟩, rfl, rfl, rfl, rfl⟩

theorem Sampled.trans {es fs : List Event} {s t u : State} (h : Sampled es s t) (g : Sampled fs t u) :
    Sampled (es ++ fs) s u :=
  ⟨h.toDid.trans g.toDid, g.table.trans h.table, g.count.trans h.count, g.search.trans h.search, g.free.trans h.free⟩

/-- One slot takes a sample. -/
theorem Sampled.setSample {es : List Event} {s t : State} (h : Sampled es s t) (i : Nat) (v : Half) :
    Sampled es s (setSample i v t) :=
  ⟨⟨h.trace, h.bus, h.agenda, h.refusals, h.pendingReset, h.params⟩, h.table, h.count, h.search, h.free⟩

/-- A run of transactions more. -/
theorem Sampled.onBus {es : List Event} {s t : State} (h : Sampled es s t) (fs : List Event) :
    Sampled (es ++ fs) s (onBus fs t) :=
  h.trans ⟨did_onBus fs t, rfl, rfl, rfl, rfl⟩

/-- From s to t the cycles of the first j devices were performed, each with presence at both resets, and their slots
hold the values read. -/
structure CyclesDone (s : State) (j : Nat) (t : State) : Prop
    extends Sampled (cyclesEvents (s.table.toList.take j) s.bus) s t where
  stored : ∀ i < j, t.samples[i]? = some (sampleAtCycle s i)
  kept : ∀ i, j ≤ i → t.samples[i]? = s.samples[i]?
  tally : Tally (cyclesEvents (s.table.toList.take j) s.bus) (2 * j) (160 * j) (16 * j)

theorem cyclesDone_zero (s : State) : CyclesDone s 0 s :=
  ⟨sampled_refl s, fun _ hi => absurd hi (Nat.not_lt_zero _), fun _ _ => rfl, tally_nil⟩

theorem getElem?_setIfInBounds_self (v : Vector Half 5) {j : Nat} (hj : j < 5) (x : Half) :
    (v.setIfInBounds j x)[j]? = some x := by simp [hj]

theorem getElem?_setIfInBounds_ne (v : Vector Half 5) {i j : Nat} (h : j ≠ i) (x : Half) :
    (v.setIfInBounds j x)[i]? = v[i]? := by simp [h]

/-- The state t once device j, too, answered its Read Scratchpad frame in a SAMPLE_ALL from s (43_sampler.md R184). -/
def sampleStored (s : State) (j : Nat) (t : State) : State :=
  setSample j (sampleAtCycle s j) (onBus (readFrameEvents (tableEntry s j) (busAtCycle s j)) (atIndex j t))

/-- How the loop over the devices can end: after all of them, or at the first reset without presence (43_sampler.md
R181, R183; conflict C6). -/
inductive SamplesTo (s : State) : State → Prop
  | complete {t : State} (done : CyclesDone s s.count.val t) : SamplesTo s t
  | absentAtRead {j : Nat} {t : State} (before : j < s.count.val) (done : CyclesDone s j t)
      (absent : (busAtCycle s j).presenceBit = false) :
      SamplesTo s (onBus [.rst false, .oc (.busAbsentSample j .read)] (atIndex j t))
  | absentAtConvert {j : Nat} {t : State} (before : j < s.count.val) (done : CyclesDone s j t)
      (present : (busAtCycle s j).presenceBit = true) (absent : (busAtConvert s j).presenceBit = false) :
      SamplesTo s (onBus [.rst false, .oc (.busAbsentSample j .convert)] (sampleStored s j t))

section
variable {s t : State} {j : Nat}

theorem CyclesDone.bus_eq (h : CyclesDone s j t) : t.bus = busAtCycle s j := h.bus

theorem CyclesDone.entry (h : CyclesDone s j t) (i : Nat) : tableEntry t i = tableEntry s i := by
  rw [tableEntry, h.table, tableEntry]

theorem CyclesDone.transactions (h : CyclesDone s j t) :
    transactions (cyclesEvents (s.table.toList.take j) s.bus) = 178 * j := by
  have := h.tally.transactions
  omega

/-- The cycle of device j, if its first reset sees presence. -/
theorem CyclesDone.sampleDevice_eq (h : CyclesDone s j t) (present : (busAtCycle s j).presenceBit = true) :
    sampleDevice j t =
      if (busAtConvert s j).presenceBit then
        (true, onBus (convertFrameEvents (tableEntry s j) (busAtConvert s j)) (sampleStored s j t))
      else (false, onBus [.rst false, .oc (.busAbsentSample j .convert)] (sampleStored s j t)) := by
  have stored : setSample j (sampleOfBits (frameAnswers (tableEntry s j) t.bus))
      (onBus (readFrameEvents (tableEntry s j) t.bus) (atIndex j t)) = sampleStored s j t := by
    rw [h.bus_eq]
    rfl
  have bus : (sampleStored s j t).bus = busAtConvert s j := congrArg (Bus.replay · _) h.bus_eq
  rw [sampleDevice_present (h.bus_eq ▸ present), h.entry]
  simp only [stored, bus]

theorem CyclesDone.sampled_sampleStored (h : CyclesDone s j t) :
    Sampled (cyclesEvents (s.table.toList.take j) s.bus ++ readFrameEvents (tableEntry s j) (busAtCycle s j)) s
      (sampleStored s j t) :=
  (h.toSampled.trans (sampled_onBus _ j t)).setSample j _

theorem CyclesDone.stored_sampleStored (h : CyclesDone s j t) (hj : j < 5) :
    ∀ i < j + 1, (sampleStored s j t).samples[i]? = some (sampleAtCycle s i) := by
  intro i hi
  obtain hlt | rfl := Nat.lt_succ_iff_lt_or_eq.mp hi
  · exact (getElem?_setIfInBounds_ne _ (Nat.ne_of_gt hlt) _).trans (h.stored i hlt)
  · exact getElem?_setIfInBounds_self _ hj _

theorem CyclesDone.kept_sampleStored (h : CyclesDone s j t) :
    ∀ i, j + 1 ≤ i → (sampleStored s j t).samples[i]? = s.samples[i]? := fun i hi =>
  (getElem?_setIfInBounds_ne _ (Nat.ne_of_lt hi) _).trans (h.kept i (Nat.le_of_succ_le hi))

/-- With presence at both of its resets, the cycle of device j is one more. -/
theorem CyclesDone.next (h : CyclesDone s j t) (hj : j < 5) (present : (busAtCycle s j).presenceBit = true)
    (present' : (busAtConvert s j).presenceBit = true) :
    CyclesDone s (j + 1) (onBus (convertFrameEvents (tableEntry s j) (busAtConvert s j))
      (sampleStored s j t)) := by
  have events := cyclesEvents_take_succ s hj
  refine ⟨?_, h.stored_sampleStored hj, h.kept_sampleStored, ?_⟩
  · rw [events, cycleEvents, ← List.append_assoc]
    exact h.sampled_sampleStored.onBus _
  · rw [events]
    exact h.tally.append (tally_cycleEvents present present')

/-- So the loop ends in one of these ways. -/
theorem CyclesDone.samplesTo {n : Nat} (h : CyclesDone s j t) (hn : j + n = s.count.val) :
    SamplesTo s (sampleFrom j n t) := by
  induction n generalizing j t with
  | zero => exact .complete (hn ▸ h)
  | succ n ih =>
    have before : j < s.count.val := by omega
    rw [sampleFrom]
    cases present : (busAtCycle s j).presenceBit with
    | false =>
      rw [sampleDevice_absentAtRead (h.bus_eq ▸ present)]
      exact .absentAtRead before h present
    | true =>
      rw [h.sampleDevice_eq present]
      cases present' : (busAtConvert s j).presenceBit with
      | false => exact .absentAtConvert before h present present'
      | true => exact ih (h.next (by omega) present present') (by omega)

end

/-- SAMPLE_ALL is its start, the loop and the return (43_sampler.md R180). -/
theorem exec_sampleAll (s : State) :
    exec .sampleAll s = .next (returnOp .noValue (sampleFrom 0 s.count.val (startOp .sampleAll .sampleAll s))) := rfl

theorem sampleFrom_samplesTo (s : State) : SamplesTo s (sampleFrom 0 s.count.val s) :=
  (cyclesDone_zero s).samplesTo (Nat.zero_add _)

/-- The loop changes nothing but what SAMPLE_ALL may, and it changes no slot from count on. -/
theorem SamplesTo.sampled {s u : State} (h : SamplesTo s u) :
    (∃ es, Sampled es s u) ∧ ∀ i, s.count.val ≤ i → u.samples[i]? = s.samples[i]? := by
  cases h with
  | complete done => exact ⟨⟨_, done.toSampled⟩, done.kept⟩
  | absentAtRead before done =>
    exact ⟨⟨_, done.toSampled.trans (sampled_onBus _ _ _)⟩, fun i hi => done.kept i (by omega)⟩
  | absentAtConvert before done =>
    exact ⟨⟨_, done.sampled_sampleStored.onBus _⟩, fun i hi => done.kept_sampleStored i (by omega)⟩

end Sys2Proof.Machine
end

section
/-! CERTIFICATES. SAMPLE_ALL on any bus (43_sampler.md). -/

namespace Sys2Proof.Machine

/-- Settles O47: however the loop ends, it changes slots below count only, and with count 0 it does nothing. -/
theorem sampleAllFrame : Obligations.SampleAllFrame := by
  intro s
  obtain ⟨⟨es, sampled⟩, kept⟩ := (sampleFrom_samplesTo (startOp .sampleAll .sampleAll s)).sampled
  refine ⟨_, exec_sampleAll s, rfl, rfl, sampled.count, sampled.table, sampled.search, sampled.free, kept,
    fun empty => ?_⟩
  rw [empty]
  exact ⟨rfl, rfl, rfl⟩

/-- Settles O48: the loop ends after all devices, or at one of the two resets of a device. -/
theorem sampleAllCountsAndAborts : Obligations.SampleAllCountsAndAborts := by
  intro s
  have loop := sampleFrom_samplesTo (startOp .sampleAll .sampleAll s)
  rw [startOp_count] at loop
  have run := exec_sampleAll s
  generalize sampleFrom 0 s.count.val _ = u at loop run
  cases loop with
  | complete done =>
    exact ⟨_, _, _, run, done.trace.trans (List.append_assoc ..), done.stored, fun i hi => done.kept i (le_of_lt hi),
      .inl ⟨rfl, done.kept _ le_rfl, rfl, done.tally.outcomes, done.transactions, done.tally.resets,
        done.tally.writes, done.tally.reads⟩⟩
  | @absentAtRead j t before done absent =>
    have events := done.toSampled.trans (sampled_onBus [.rst false, .oc (.busAbsentSample j .read)] j t)
    obtain ⟨raised, count⟩ := tally_abort done.tally (.busAbsentSample j .read)
    exact ⟨_, _, j, run, events.trace.trans (List.append_assoc ..), done.stored,
      fun i hi => done.kept i (le_of_lt hi),
      .inr (.inl ⟨before, done.kept j le_rfl, rfl, raised, count.trans (by omega)⟩)⟩
  | @absentAtConvert j t before done present absent =>
    have events := done.sampled_sampleStored.onBus [.rst false, .oc (.busAbsentSample j .convert)]
    have stored := done.stored_sampleStored (by omega)
    obtain ⟨raised, count⟩ := tally_abort (done.tally.append (tally_readFrameEvents present _))
      (.busAbsentSample j .convert)
    exact ⟨_, _, j, run, events.trace.trans (List.append_assoc ..), fun i hi => stored i (Nat.lt_succ_of_lt hi),
      done.kept_sampleStored,
      .inr (.inr ⟨before, stored j (Nat.lt_succ_self j), rfl, raised, count.trans (by omega)⟩)⟩

end Sys2Proof.Machine
end

section
/-! SUPPORT. Reference devices in the frames of SAMPLE_ALL, with the conversions that land in them (60_exceptions.md
R249 to R256; log 15). -/

namespace Sys2Proof.Machine

/-! ### Conversions that land as transactions go on -/

/-- The transaction, counted from 1, at whose end a planned landing comes (60_exceptions.md R255). -/
def Landing.due (l : Landing) : Nat := max 1 l.transactions

/-- The landings of the list that are still to come when n transactions are over. -/
def landingsAfter (ls : List Landing) (n : Nat) : List Landing :=
  (ls.filter fun l => n < l.due).map fun l => { l with transactions := l.transactions - n }

/-- The device at place j when n transactions are over: its conversion has landed where the list says so. -/
def landed (ls : List Landing) (n j : Nat) (d : Device) : Device :=
  if ∃ l ∈ ls, l.due ≤ n ∧ l.device = j then d.land else d

theorem landingsAfter_zero (ls : List Landing) : landingsAfter ls 0 = ls := by
  have all : ls.filter (fun l => 0 < l.due) = ls := List.filter_eq_self.mpr fun l _ => by simp [Landing.due]
  rw [landingsAfter, all]
  exact List.map_id ls

theorem landed_zero (ls : List Landing) (j : Nat) (d : Device) : landed ls 0 j d = d :=
  if_neg fun ⟨l, _, h, _⟩ => by simp [Landing.due] at h

theorem landed_nil (n j : Nat) (d : Device) : landed [] n j d = d := if_neg (by simp)

@[simp] theorem landed_rom (ls : List Landing) (n j : Nat) (d : Device) : (landed ls n j d).rom = d.rom := by
  unfold landed
  split
  · exact congrArg Prod.fst (land_view d)
  · rfl

/-- The scratchpad of the device: a pending conversion that has landed replaced it (60_exceptions.md R255). -/
theorem landed_sp (ls : List Landing) {n : Nat} (hn : 1 ≤ n) (j : Nat) (d : Device) : (landed ls n j d).sp =
    if d.pending = true ∧ ∃ l ∈ ls, l.device = j ∧ l.transactions ≤ n then d.conv.signExtend 16 else d.sp := by
  have due : (∃ l ∈ ls, l.due ≤ n ∧ l.device = j) ↔ ∃ l ∈ ls, l.device = j ∧ l.transactions ≤ n := by
    simp only [Landing.due, max_le_iff, hn, true_and, and_comm]
  rw [landed]
  simp only [due]
  by_cases h : ∃ l ∈ ls, l.device = j ∧ l.transactions ≤ n
  · simp only [h, if_true, and_true, Device.land, Device.reading]
    split <;> rfl
  · simp only [h, if_false, and_false]

/-- A transaction later, the landings to come are one transaction nearer. -/
theorem landingsAfter_succ (ls : List Landing) (n : Nat) :
    ((landingsAfter ls n).filter fun l => 1 < l.transactions).map
      (fun l => { l with transactions := l.transactions - 1 }) = landingsAfter ls (n + 1) := by
  have later : ∀ l : Landing, (decide (1 < l.transactions - n) && decide (n < l.due)) = decide (n + 1 < l.due) := by
    intro l
    rw [← Bool.decide_and, decide_eq_decide, Landing.due]
    omega
  simp only [landingsAfter, List.filter_map, List.filter_filter, List.map_map, Function.comp_def, later, Nat.sub_sub]

theorem land_withState (d : Device) (st : DeviceState) : { d with st := st }.land = { d.land with st := st } := by
  simp only [Device.land, Device.reading]
  split <;> rfl

/-- The landings at the end of the next transaction. -/
theorem exists_landingsAfter (ls : List Landing) (n j : Nat) :
    (∃ l ∈ landingsAfter ls n, l.transactions ≤ 1 ∧ l.device = j) ↔ ∃ l ∈ ls, l.due = n + 1 ∧ l.device = j := by
  simp only [landingsAfter, List.mem_map, List.mem_filter, decide_eq_true_eq]
  constructor
  · rintro ⟨_, ⟨l, ⟨hl, ahead⟩, rfl⟩, near, rfl⟩
    exact ⟨l, hl, by simp only [Landing.due] at *; omega, rfl⟩
  · rintro ⟨l, hl, due, rfl⟩
    exact ⟨_, ⟨l, ⟨hl, by omega⟩, rfl⟩, by simp only [Landing.due] at *; omega, rfl⟩

/-- A transaction later, the conversions due by then have landed. -/
theorem landed_succ (ls : List Landing) (n j : Nat) (d : Device) (st : DeviceState) :
    (if ∃ l ∈ landingsAfter ls n, l.transactions ≤ 1 ∧ l.device = j then { landed ls n j d with st := st }.land
      else { landed ls n j d with st := st }) = { landed ls (n + 1) j d with st := st } := by
  have later : (∃ l ∈ ls, l.due ≤ n + 1 ∧ l.device = j) ↔
      (∃ l ∈ ls, l.due ≤ n ∧ l.device = j) ∨ ∃ l ∈ ls, l.due = n + 1 ∧ l.device = j := by
    simp only [Nat.le_succ_iff, or_and_right, and_or_left, exists_or]
  simp only [exists_landingsAfter, landed, later, land_withState]
  by_cases before : ∃ l ∈ ls, l.due ≤ n ∧ l.device = j
  · simp only [before, true_or, if_true, land_land, ite_self]
  · simp only [before, false_or, if_false]
    split <;> rfl

/-! ### The devices of a frame -/

/-- On a faultless line exactly these reference devices answer, with no scripted answer. -/
structure Bus.Has (ds : List Device) (b : Bus) : Prop where
  unscripted : b.script = []
  population : b.population = .reference ds .noFault

/-- n transactions after the devices were ds and the landings ls, each device is in the state st gives its identifier,
and of all else only conversions landed. -/
structure Bus.Serves (ls : List Landing) (ds : List Device) (n : Nat) (st : Identifier → DeviceState) (b : Bus) : Prop
    extends b.Has (ds.mapIdx fun j d => { landed ls n j d with st := st d.rom }) where
  landings : b.landings = landingsAfter ls n

section
variable {ls : List Landing} {ds : List Device} {n : Nat} {st st' : Identifier → DeviceState} {b : Bus}

/-- The end of a transaction. -/
theorem serves_tick (h : b.Serves ls ds n st) : b.tick.Serves ls ds (n + 1) st := by
  obtain ⟨es, he, size, landing⟩ := tick_devices b _ _ h.population
  refine ⟨⟨h.unscripted, ?_⟩, by rw [tick_landings, h.landings, landingsAfter_succ]⟩
  rw [he]
  congr 1
  refine List.ext_getElem? fun j => ?_
  cases hd : ds[j]? with
  | none =>
    have out : ds.length ≤ j := List.getElem?_eq_none_iff.mp hd
    rw [List.getElem?_eq_none (by simpa [size] using out), List.getElem?_eq_none (by simpa using out)]
  | some d =>
    rw [landing j _ (by rw [List.getElem?_mapIdx, hd]; rfl), List.getElem?_mapIdx, hd, h.landings, landed_succ]
    rfl

/-- A reset makes every device wait for a ROM command (60_exceptions.md R248). -/
theorem Bus.Has.afterReset (h : b.Has ds) : b.afterReset.Serves b.landings ds 1 fun _ => .romCmd 0 0 := by
  refine serves_tick ⟨⟨congrArg List.tail h.unscripted, ?_⟩, (landingsAfter_zero b.landings).symm⟩
  simp only [h.population, Population.reset, resetDevices, landed_zero]
  congr 1
  exact List.ext_getElem? fun j => by rw [List.getElem?_map, List.getElem?_mapIdx]; rfl

/-- A slot in which the devices only change their states. -/
theorem map_slot_mapIdx {line : Bool}
    (next : ∀ d : Device, d.st = st d.rom → d.slot line = { d with st := st' d.rom }) :
    (ds.mapIdx fun j d => { landed ls n j d with st := st d.rom }).map (Device.slot · line) =
      ds.mapIdx fun j d => { landed ls n j d with st := st' d.rom } := by
  refine List.ext_getElem? fun j => ?_
  cases hd : ds[j]? with
  | none => simp [hd]
  | some d =>
    have moved := next { landed ls n j d with st := st d.rom } (by rw [landed_rom])
    simp only [landed_rom] at moved
    simp [hd, moved]

/-- A write slot in which every device only listens and takes the bit. -/
theorem Bus.Serves.afterWrite {v : Bool} (h : b.Serves ls ds n st) (listens : ∀ r, (st r).listening = true)
    (next : ∀ d : Device, d.st = st d.rom → d.slot v = { d with st := st' d.rom }) :
    (b.afterWrite v).Serves ls ds (n + 1) st' := by
  have line := lineValue_quiet v (ds.mapIdx fun j d => { landed ls n j d with st := st d.rom }) fun e he => by
    obtain ⟨j, hj, rfl⟩ := List.mem_mapIdx.mp he
    exact output_of_listening _ (listens _)
  refine serves_tick ⟨⟨h.unscripted, ?_⟩, h.landings⟩
  simp only [h.population, Population.slot, slotDevices, line]
  rw [map_slot_mapIdx next]

/-- A read slot. -/
theorem Bus.Serves.afterRead (h : b.Serves ls ds n st)
    (next : ∀ (d : Device) line, d.st = st d.rom → d.slot line = { d with st := st' d.rom }) :
    b.afterRead.Serves ls ds (n + 1) st' := by
  refine serves_tick ⟨⟨congrArg List.tail h.unscripted, ?_⟩, h.landings⟩
  simp only [h.population, Population.slot, slotDevices]
  rw [map_slot_mapIdx fun d => next d _]

/-- A run of write slots in which every device only listens and goes from one state of a path to the next. -/
theorem Bus.Serves.writes {path : Nat → Identifier → DeviceState} (m : Nat) (f : Nat → Bool)
    (h : b.Serves ls ds n (path 0)) (listens : ∀ k < m, ∀ r, (path k r).listening = true)
    (next : ∀ k < m, ∀ d : Device, d.st = path k d.rom → d.slot (f k) = { d with st := path (k + 1) d.rom }) :
    (b.replay (writeEvents ((List.range m).map f))).Serves ls ds (n + m) (path m) := by
  induction m with
  | zero => exact h
  | succ m ih =>
    have before := ih (fun k hk => listens k (by omega)) fun k hk => next k (by omega)
    rw [List.range_succ, List.map_append, writeEvents, List.map_append, replay_append]
    exact before.afterWrite (listens m (by omega)) (next m (by omega))

end

/-! ### Bytes and identifiers -/

/-- The first k bits of a byte, taken one by one. -/
def bitsTaken (v : Byte) : Nat → Byte
  | 0 => 0
  | k + 1 => putBit (bitsTaken v k) k (v.getLsbD k)

/-- The states of a device that takes the bits of a byte and then is in the state `taken`. -/
def byteState (waiting : Nat → Byte → DeviceState) (taken : DeviceState) (v : Byte) (k : Nat) : DeviceState :=
  if k < 8 then waiting k (bitsTaken v k) else taken

/-- Only devices of the identifier id are in the state st; any other has dropped out (60_exceptions.md R253). -/
def addressed (id : Identifier) (st : DeviceState) (r : Identifier) : DeviceState := if r = id then st else .inactive

/-- The state of a device of identifier r after k bits of id in a Match ROM (60_exceptions.md R253). -/
def matchState (id : Identifier) (k : Nat) (r : Identifier) : DeviceState :=
  if ∀ q < k, idBit r (q + 1) = idBit id (q + 1) then if k < 64 then .matching (k + 1) else .func 0 0 else .inactive

theorem matchState_all (id : Identifier) : matchState id 64 = addressed id (.func 0 0) := by
  funext r
  have same : (∀ q < 64, idBit r (q + 1) = idBit id (q + 1)) ↔ r = id := by
    refine ⟨fun h => ext_idBit r id fun p h1 h2 => ?_, fun h q _ => by rw [h]⟩
    obtain ⟨q, rfl⟩ := Nat.exists_eq_add_of_le' h1
    exact h q (by omega)
  simp only [matchState, same, Nat.lt_irrefl, if_false, addressed]

/-- A device that takes the bits of v one by one, and at the eighth does what `dispatch` says. -/
theorem slot_byteBit {d : Device} {waiting : Nat → Byte → DeviceState} {dispatch : Byte → Device} {taken : DeviceState}
    {v : Byte} (takes : ∀ k acc line, d.st = waiting k acc → d.slot line =
      if k + 1 = 8 then dispatch (putBit acc k line) else { d with st := waiting (k + 1) (putBit acc k line) })
    (dispatched : dispatch v = { d with st := taken }) {k : Nat} (hk : k < 8) (h : d.st = byteState waiting taken v k) :
    d.slot (v.getLsbD k) = { d with st := byteState waiting taken v (k + 1) } := by
  rw [byteState, if_pos hk] at h
  rw [takes k _ _ h]
  obtain below | rfl : k + 1 < 8 ∨ k = 7 := by omega
  · rw [if_neg (Nat.ne_of_lt below), byteState, if_pos below, bitsTaken]
  · have whole : putBit (bitsTaken v 7) 7 (v.getLsbD 7) = v := putBits_byte v
    rw [if_pos rfl, whole, dispatched]
    rfl

theorem slot_matchBit {d : Device} {id : Identifier} {k : Nat} (hk : k < 64) (h : d.st = matchState id k d.rom) :
    d.slot (idBit id (k + 1)) = { d with st := matchState id (k + 1) d.rom } := by
  by_cases agree : ∀ q < k, idBit d.rom (q + 1) = idBit id (q + 1)
  · rw [matchState, if_pos agree, if_pos hk] at h
    have compared : d.slot (idBit id (k + 1)) = d.compare (k + 1) (idBit id (k + 1)) (.matching (k + 2)) := by
      rw [Device.slot, h]
    rw [compared, Device.compare]
    by_cases same : idBit d.rom (k + 1) = idBit id (k + 1)
    · have agree' := Nat.forall_lt_succ_right.mpr ⟨agree, same⟩
      rw [if_neg (not_not.mpr same.symm), matchState, if_pos agree', Config.idBits]
      split <;> rfl
    · rw [if_pos (Ne.symm same), matchState, if_neg fun all => same (all k (Nat.lt_succ_self k))]
  · rw [matchState, if_neg agree] at h
    rw [matchState, if_neg fun all => agree fun q hq => all q (Nat.lt_succ_of_lt hq), ← h]
    exact slot_inactive [_] d h

section
variable {ls : List Landing} {ds : List Device} {n : Nat} {id : Identifier} {b : Bus}

/-- Devices that wait for a ROM command take its byte (60_exceptions.md R250, R251). -/
theorem Bus.Serves.romByte (h : b.Serves ls ds n fun _ => .romCmd 0 0) (v : Byte) :
    (b.replay (writeEvents (byteBits v))).Serves ls ds (n + 8) fun _ => romDispatch v := by
  refine Bus.Serves.writes (path := fun k _ => byteState .romCmd (romDispatch v) v k) 8 v.getLsbD h
    (fun k hk r => by simp only [byteState, hk, if_true]; rfl) fun k hk d hd => ?_
  exact slot_byteBit (dispatch := fun acc => { d with st := romDispatch acc })
    (fun k acc line hst => by rw [Device.slot, hst]) rfl hk hd

/-- In a Match ROM the devices of the identifier are selected, and the others drop out (60_exceptions.md R253). -/
theorem Bus.Serves.identifier (h : b.Serves ls ds n fun _ => .matching 1) (id : Identifier) :
    (b.replay (writeEvents (idBits id))).Serves ls ds (n + 64) (addressed id (.func 0 0)) := by
  rw [idBits_eq, ← matchState_all]
  refine Bus.Serves.writes 64 _ h (fun k hk r => ?_) fun k hk d hd => slot_matchBit hk hd
  simp only [matchState, hk, if_true]
  split <;> rfl

/-- A selected device takes the byte 0xBE (60_exceptions.md R254). -/
theorem Bus.Serves.readCommand (h : b.Serves ls ds n (addressed id (.func 0 0))) :
    (b.replay (writeEvents (byteBits Config.cmdReadScratchpad))).Serves ls ds (n + 8) (addressed id (.readSp 0)) := by
  refine Bus.Serves.writes (path := fun k => addressed id (byteState .func (.readSp 0) Config.cmdReadScratchpad k)) 8
    Config.cmdReadScratchpad.getLsbD h (fun k hk r => ?_) fun k hk d hd => ?_
  · simp only [addressed, byteState, hk, if_true]
    split <;> rfl
  · unfold addressed at hd ⊢
    by_cases hr : d.rom = id
    · rw [if_pos hr] at hd ⊢
      exact slot_byteBit (fun k acc line hst => by rw [Device.slot, hst]) rfl hk hd
    · rw [if_neg hr] at hd ⊢
      rw [← hd]
      exact slot_inactive [_] d hd

/-- A reset without an answer is impossible while a device is there (60_exceptions.md R248). -/
theorem Bus.Has.presenceBit (h : b.Has ds) (ne : ds ≠ []) : b.presenceBit = true := by
  rw [presenceBit_unscripted h.unscripted h.population]
  cases ds with
  | nil => exact absurd rfl ne
  | cons d ds => rfl

/-- After the Match ROM frame of a cycle, 73 transactions (30_encoding.md R93). -/
theorem Bus.Has.matchFrame (h : b.Has ds) (ne : ds ≠ []) (id : Identifier) :
    (b.replay (matchFrameEvents id b)).Serves b.landings ds 73 (addressed id (.func 0 0)) := by
  have frame : matchFrameEvents id b =
      [.rst true] ++ writeEvents (byteBits Config.cmdMatchRom) ++ writeEvents (idBits id) := by
    simp [matchFrameEvents, matchEvents, h.presenceBit ne]
  rw [frame, replay_append, replay_append]
  exact (h.afterReset.romByte Config.cmdMatchRom).identifier id

/-- After the byte 0xBE of a Read Scratchpad frame, 81 transactions (30_encoding.md R94). -/
theorem Bus.Has.readFrame (h : b.Has ds) (ne : ds ≠ []) (id : Identifier) :
    (b.replay (commandEvents Config.cmdReadScratchpad id b)).Serves b.landings ds 81 (addressed id (.readSp 0)) := by
  rw [commandEvents, replay_append]
  exact (h.matchFrame ne id).readCommand

/-- A device that transmits its scratchpad goes on to the next bit (60_exceptions.md R256). -/
theorem Bus.Serves.scratchpadRead {k : Nat} (h : b.Serves ls ds n (addressed id (.readSp k))) :
    b.afterRead.Serves ls ds (n + 1) (addressed id (.readSp (k + 1))) := by
  refine h.afterRead fun d line hd => ?_
  unfold addressed at hd ⊢
  by_cases hr : d.rom = id
  · rw [if_pos hr] at hd ⊢
    rw [Device.slot, hd]
  · rw [if_neg hr] at hd ⊢
    rw [← hd]
    exact slot_inactive [_] d hd

theorem Bus.Serves.scratchpadReads (k : Nat) (h : b.Serves ls ds n (addressed id (.readSp 0))) :
    (Bus.afterRead^[k] b).Serves ls ds (n + k) (addressed id (.readSp k)) := by
  induction k with
  | zero => exact h
  | succ k ih =>
    rw [Function.iterate_succ_apply']
    exact ih.scratchpadRead

/-- Read k of a scratchpad answers the wired AND of bit k of the scratchpads transmitted (60_exceptions.md R249,
R256). -/
theorem Bus.Serves.scratchpadBit {k : Nat} (hk : k < 16) (h : b.Serves ls ds n (addressed id (.readSp k))) :
    b.readBit = true ↔ ∀ j d, ds[j]? = some d → d.rom = id → (landed ls n j d).sp.getLsbD k = true := by
  have output : ∀ j d, ({ landed ls n j d with st := addressed id (.readSp k) d.rom } : Device).output = true ↔
      (d.rom = id → (landed ls n j d).sp.getLsbD k = true) := by
    intro j d
    by_cases hr : d.rom = id <;> simp [Device.output, addressed, hr, hk]
  rw [readBit_unscripted h.unscripted h.population]
  simp only [lineValue, wiredAnd, List.all_cons, id_eq, Bool.true_and, List.all_map, List.all_eq_true]
  constructor
  · intro all j d hd
    refine (output j d).mp (all _ ?_)
    exact List.mem_of_getElem? (i := j) (by rw [List.getElem?_mapIdx, hd]; rfl)
  · intro all e he
    obtain ⟨j, hj, rfl⟩ := List.mem_mapIdx.mp he
    exact (output j _).mpr (all j _ (List.getElem?_eq_getElem hj))

end

/-! ### The sample -/

theorem reads_getElem? {m k : Nat} (hk : k < m) (b : Bus) : (b.reads m)[k]? = some (Bus.afterRead^[k] b).readBit := by
  induction m generalizing k b with
  | zero => omega
  | succ m ih =>
    cases k with
    | zero => rfl
    | succ k => exact ih (Nat.lt_of_succ_lt_succ hk) b.afterRead

theorem replay_reads (m : Nat) (b : Bus) : b.replay ((b.reads m).map Event.r) = Bus.afterRead^[m] b := by
  induction m generalizing b with
  | zero => rfl
  | succ m ih => exact ih b.afterRead

theorem getLsbD_sampleOfBits (bs : List Bool) {k : Nat} (hk : k < 16) :
    (sampleOfBits bs).getLsbD k = (bs[k]?).getD false := by
  simp [sampleOfBits, hk, BitVec.getLsbD_ofBoolListLE, List.getD_eq_getElem?_getD]

/-- Bit k of the sample of an identifier: bit k of the scratchpads of its devices, as they are after the 81 + k
transactions before the read, and 1 where it has no device (60_exceptions.md R249, R255 to R257; log 15). -/
theorem Bus.Has.sample_bit {ds : List Device} {b : Bus} (h : b.Has ds) (ne : ds ≠ []) (id : Identifier) {k : Nat}
    (hk : k < 16) : (sampleOfBits (frameAnswers id b)).getLsbD k = true ↔
      ∀ j d, ds[j]? = some d → d.rom = id → (landed b.landings (81 + k) j d).sp.getLsbD k = true := by
  rw [getLsbD_sampleOfBits _ hk, frameAnswers, reads_getElem? hk, Option.getD_some]
  exact ((h.readFrame ne id).scratchpadReads k).scratchpadBit hk

end Sys2Proof.Machine
end

section
/-! SUPPORT. SAMPLE_ALL of reference devices: every reset sees presence, and what the cycles do to devices with no
conversion to land (43_sampler.md R184, R185; 60_exceptions.md R253 to R257). -/

namespace Sys2Proof.Machine

/-! ### Every reset sees presence -/

section
variable {ds : List Device} {b : Bus} {s : State}

/-- The end of a transaction leaves the devices' identifiers. -/
theorem Bus.Has.tick (h : b.Has ds) : ∃ es, b.tick.Has es ∧ es.map Device.rom = ds.map Device.rom := by
  obtain ⟨es, he, views⟩ := tick_reference b ds .noFault h.population
  refine ⟨es, ⟨h.unscripted, he⟩, ?_⟩
  have roms := congrArg (List.map Prod.fst) views
  rwa [List.map_map, List.map_map] at roms

/-- No event makes a device leave or join (60_exceptions.md R245; log 23). -/
theorem Bus.Has.afterEvent (h : b.Has ds) (e : Event) :
    ∃ es, (b.afterEvent e).Has es ∧ es.map Device.rom = ds.map Device.rom := by
  have stays : ∀ (g : Device → Device) (c : Bus), (∀ d, (g d).rom = d.rom) → c.Has (ds.map g) →
      ∃ es, c.tick.Has es ∧ es.map Device.rom = ds.map Device.rom := by
    intro g c hg hc
    obtain ⟨es, has, roms⟩ := hc.tick
    exact ⟨es, has, roms.trans (by simp [Function.comp_def, hg])⟩
  cases e with
  | rst p =>
    exact stays Device.reset _ (fun _ => rfl)
      ⟨congrArg List.tail h.unscripted, congrArg Population.reset h.population⟩
  | w v => exact stays (Device.slot · _) _ (slot_rom · _) ⟨h.unscripted, congrArg (Population.slot v) h.population⟩
  | r v =>
    exact stays (Device.slot · _) _ (slot_rom · _)
      ⟨congrArg List.tail h.unscripted, congrArg (Population.slot true) h.population⟩
  | op o => exact ⟨ds, h, rfl⟩
  | oc o => exact ⟨ds, h, rfl⟩

theorem Bus.Has.replay (h : b.Has ds) (es : List Event) :
    ∃ es', (b.replay es).Has es' ∧ es'.map Device.rom = ds.map Device.rom := by
  induction es generalizing b ds with
  | nil => exact ⟨ds, h, rfl⟩
  | cons e es ih =>
    obtain ⟨es₁, has₁, roms₁⟩ := h.afterEvent e
    obtain ⟨es₂, has₂, roms₂⟩ := ih has₁
    exact ⟨es₂, has₂, roms₂.trans roms₁⟩

theorem ne_nil_of_roms {es : List Device} (ne : ds ≠ []) (roms : es.map Device.rom = ds.map Device.rom) : es ≠ [] := by
  rintro rfl
  exact ne (List.map_eq_nil_iff.mp roms.symm)

theorem Bus.Has.replay_presenceBit (h : b.Has ds) (ne : ds ≠ []) (es : List Event) :
    (b.replay es).presenceBit = true := by
  obtain ⟨es', has, roms⟩ := h.replay es
  exact has.presenceBit (ne_nil_of_roms ne roms)

/-- So every cycle of a SAMPLE_ALL is complete (43_sampler.md R181). -/
theorem sampleAll_complete (h : s.bus.Has ds) (ne : ds ≠ []) : ∃ u,
    exec .sampleAll s = .next (returnOp .noValue u) ∧ CyclesDone (startOp .sampleAll .sampleAll s) s.count.val u := by
  refine ⟨_, exec_sampleAll s, ?_⟩
  have loop := sampleFrom_samplesTo (startOp .sampleAll .sampleAll s)
  rw [startOp_count] at loop
  generalize sampleFrom 0 s.count.val _ = u at loop
  cases loop with
  | complete done => exact done
  | absentAtRead _ _ absent => exact absurd (h.replay_presenceBit ne _) (Bool.eq_false_iff.mp absent)
  | absentAtConvert _ _ _ absent =>
    rw [busAtConvert, busAtCycle, ← replay_append] at absent
    exact absurd (h.replay_presenceBit ne _) (Bool.eq_false_iff.mp absent)

/-- An identifier that no device has reads 0xFFFF (43_sampler.md R188). -/
theorem Bus.Has.sample_vanished (h : b.Has ds) (ne : ds ≠ []) {id : Identifier} (vanished : id ∉ ds.map Device.rom) :
    sampleOfBits (frameAnswers id b) = 0xFFFF := by
  refine BitVec.eq_of_getLsbD_eq fun k hk => ?_
  have ones : (0xFFFF : Half).getLsbD k = true := (BitVec.getLsbD_allOnes (v := 16)).trans (decide_eq_true hk)
  rw [ones, h.sample_bit ne id hk]
  rintro j d hd rfl
  exact absurd (List.mem_map_of_mem (List.mem_of_getElem? hd)) vanished

end

/-! ### Cycles in which no conversion is to land -/

/-- What a cycle of the identifier id does to a device: it starts the conversion of a device of that identifier, and
leaves the device inactive (43_sampler.md R185; 60_exceptions.md R253, R255). -/
def Device.cycled (d : Device) (id : Identifier) : Device :=
  { d with pending := d.pending || decide (d.rom = id), st := .inactive }

/-- What the cycles of at least one identifier do to a device. -/
theorem foldl_cycled (id : Identifier) (ids : List Identifier) (d : Device) : (id :: ids).foldl Device.cycled d =
    { d with pending := d.pending || decide (d.rom ∈ id :: ids), st := .inactive } := by
  induction ids generalizing id d with
  | nil => simp [Device.cycled]
  | cons x xs ih =>
    rw [List.foldl_cons, ih]
    simp [Device.cycled, Bool.or_assoc]

theorem foldl_cycled_rom (ids : List Identifier) (d : Device) : (ids.foldl Device.cycled d).rom = d.rom := by
  cases ids with
  | nil => rfl
  | cons id ids => rw [foldl_cycled]

theorem foldl_cycled_sp (ids : List Identifier) (d : Device) : (ids.foldl Device.cycled d).sp = d.sp := by
  cases ids with
  | nil => rfl
  | cons id ids => rw [foldl_cycled]

/-- On a faultless line exactly these reference devices answer, and no conversion is to land. -/
structure Bus.Still (ds : List Device) (b : Bus) : Prop extends b.Has ds where
  landings : b.landings = []

/-- A device that still takes the bits of a function command byte only listens (60_exceptions.md R254). -/
theorem listening_funcBits (bs : List Bool) {d : Device} {k : Nat} {acc : Byte} (h : d.st = .func k acc)
    (hk : k + bs.length < 8) : (bs.foldl Device.slot d).st.listening = true := by
  induction bs generalizing d k acc with
  | nil => rw [List.foldl_nil, h]; rfl
  | cons x xs ih =>
    rw [List.length_cons] at hk
    refine ih (k := k + 1) (acc := putBit acc k x) ?_ (by omega)
    rw [Device.slot, h]
    exact congrArg Device.st (if_neg (by omega))

section
variable {ds : List Device} {n : Nat} {st : Identifier → DeviceState} {b : Bus} {id : Identifier}

/-- With no conversion to land, of the devices only their states change in a frame. -/
theorem Bus.Serves.still (h : b.Serves [] ds n st) : b.Still (ds.map fun d => { d with st := st d.rom }) := by
  refine ⟨⟨h.unscripted, h.population.trans (congrArg (Population.reference · .noFault) ?_)⟩, h.landings⟩
  exact List.ext_getElem? fun j => by simp [landed_nil]

/-- The byte 0x44 starts the conversion of the selected device (60_exceptions.md R255). -/
theorem Bus.Still.convertCommand (h : b.Still (ds.map fun d => { d with st := addressed id (.func 0 0) d.rom })) :
    (b.replay (writeEvents (byteBits Config.cmdConvertT))).Still (ds.map (Device.cycled · id)) := by
  have listens : ∀ d : Device, d.st = addressed id (.func 0 0) d.rom → ∀ m < 8,
      (((byteBits Config.cmdConvertT).take m).foldl Device.slot d).output = true := by
    intro d hd m hm
    refine output_of_listening _ ?_
    unfold addressed at hd
    by_cases hr : d.rom = id
    · rw [if_pos hr] at hd
      refine listening_funcBits _ hd ?_
      rw [List.length_take, Nat.zero_add]
      exact (min_le_left ..).trans_lt hm
    · rw [if_neg hr] at hd
      rw [slot_inactive _ d hd, hd]
      rfl
  have taken : ∀ d : Device, (byteBits Config.cmdConvertT).foldl Device.slot
      { d with st := addressed id (.func 0 0) d.rom } = d.cycled id := by
    intro d
    by_cases hr : d.rom = id
    · simp only [addressed, hr, if_true, Device.cycled, decide_true, Bool.or_true]
      exact slot_funcByte _ _ rfl
    · simp only [addressed, hr, if_false, Device.cycled, decide_false, Bool.or_false]
      exact slot_inactive _ _ rfl
  rw [replay_writes _ b _ h.population h.landings fun e he m hm => by
    obtain ⟨d, -, rfl⟩ := List.mem_map.mp he
    exact listens _ rfl m hm]
  refine ⟨⟨h.unscripted, ?_⟩, h.landings⟩
  simp only [List.map_map, Function.comp_def, taken]

/-- A whole cycle. -/
theorem Bus.Still.cycle (h : b.Still ds) (ne : ds ≠ []) (id : Identifier) :
    (b.replay (cycleEvents id b)).Still (ds.map (Device.cycled · id)) := by
  have read : (b.replay (readFrameEvents id b)).Still
      (ds.map fun d => { d with st := addressed id (.readSp 16) d.rom }) := by
    rw [readFrameEvents_present (h.presenceBit ne), replay_append, frameAnswers, replay_reads]
    exact (h.landings ▸ (h.readFrame ne id).scratchpadReads 16 : Bus.Serves [] ds 97 _ _).still
  have present := read.presenceBit (by simpa using ne)
  rw [cycleEvents, replay_append, convertFrameEvents_present present, commandEvents, replay_append]
  have selected := (read.landings ▸ read.matchFrame (by simpa using ne) id : Bus.Serves [] _ 73 _ _).still
  rw [List.map_map] at selected
  exact Bus.Still.convertCommand selected

/-- The cycles of a list of identifiers. -/
theorem Bus.Still.cycles (h : b.Still ds) (ne : ds ≠ []) (ids : List Identifier) :
    (b.replay (cyclesEvents ids b)).Still (ds.map fun d => ids.foldl Device.cycled d) := by
  induction ids generalizing b ds with
  | nil => simpa [cyclesEvents, replay_nil] using h
  | cons id ids ih =>
    rw [cyclesEvents, replay_append]
    have rest := ih (h.cycle ne id) (by simpa using ne)
    rwa [List.map_map] at rest

/-- The sample of the one device of an identifier is its scratchpad (43_sampler.md R184). -/
theorem Bus.Still.sample (h : b.Still ds) {d : Device} (hd : d ∈ ds) (distinct : (ds.map Device.rom).Nodup) :
    sampleOfBits (frameAnswers d.rom b) = d.sp := by
  refine BitVec.eq_of_getLsbD_eq fun k hk => Bool.eq_iff_iff.mpr ?_
  rw [h.sample_bit (List.ne_nil_of_mem hd) d.rom hk, h.landings]
  simp only [landed_nil]
  constructor
  · intro all
    obtain ⟨j, hj⟩ := List.mem_iff_getElem?.mp hd
    exact all j d hj rfl
  · intro bit j e he same
    rwa [List.inj_on_of_nodup_map distinct (List.mem_of_getElem? he) hd same]

end

/-! ### The whole operation -/

/-- SAMPLE_ALL of devices with different identifiers, no conversion being to land in it. -/
theorem sampleAll_still {s : State} {ds : List Device} (still : s.bus.Still ds) (ne : ds ≠ [])
    (distinct : ds.Pairwise fun d e => d.rom ≠ e.rom) :
    ∃ t es, exec .sampleAll s = .next t ∧ t.trace = s.trace ++ es ∧ transactions es = 178 * s.count.val ∧
      outcomes es = [] ∧
      (∀ i < s.count.val, ∀ d ∈ ds, d.rom = tableEntry s i → t.samples[i]? = some d.sp) ∧
      (s.count ≠ 0 → t.bus.population = .reference (ds.map fun d =>
        { d with
          pending := d.pending || decide (d.rom ∈ s.table.toList.take s.count.val)
          st := .inactive }) .noFault) := by
  obtain ⟨u, run, done⟩ := sampleAll_complete still.toHas ne
  refine ⟨_, _, run, done.trace.trans (List.append_assoc ..), done.transactions, done.tally.outcomes, ?_, ?_⟩
  · intro i hi d hd entry
    have before := still.cycles ne (s.table.toList.take i)
    have roms : Device.rom ∘ (fun d => (s.table.toList.take i).foldl Device.cycled d) = Device.rom :=
      funext fun d => foldl_cycled_rom _ d
    have value := before.sample (List.mem_map_of_mem hd) (by
      rw [List.map_map, roms]
      exact List.pairwise_map.mpr distinct)
    rw [foldl_cycled_rom, foldl_cycled_sp, entry] at value
    exact (done.stored i hi).trans (congrArg some value)
  · intro ne0
    have bus : u.bus = s.bus.replay (cyclesEvents (s.table.toList.take s.count.val) s.bus) := done.bus
    obtain ⟨id, ids, named⟩ : ∃ id ids, s.table.toList.take s.count.val = id :: ids :=
      List.exists_cons_of_length_pos (by
        have : s.count.val ≠ 0 := Fin.val_ne_zero_iff.mpr ne0
        simp
        omega)
    have after := (still.cycles ne (id :: ids)).population
    rw [← named, ← bus] at after
    simp only [named, foldl_cycled] at after ⊢
    exact after

/-- SAMPLE_ALL of one device that the table names: each bit is read as the scratchpad is at that read. -/
theorem sampleAll_oneDevice {s : State} {d : Device} (has : s.bus.Has [d]) (one : s.count = 1)
    (entry : tableEntry s 0 = d.rom) :
    ∃ t v, exec .sampleAll s = .next t ∧ t.samples = s.samples.set 0 v ∧
      ∀ k < 16, v.getLsbD k =
        if d.pending = true ∧ ∃ l ∈ s.bus.landings, l.device = 0 ∧ l.transactions ≤ 81 + k then
          (d.conv.signExtend 16).getLsbD k
        else d.sp.getLsbD k := by
  obtain ⟨u, run, done⟩ := sampleAll_complete has (by simp)
  rw [one] at done
  refine ⟨_, sampleAtCycle s 0, run, ?_, fun k hk => ?_⟩
  · refine Vector.ext fun i hi => Option.some.inj ?_
    rw [← Vector.getElem?_eq_getElem hi, ← Vector.getElem?_eq_getElem hi, Vector.getElem?_set]
    split
    next h => exact h ▸ done.stored 0 Nat.one_pos
    next h => exact done.kept i (Nat.pos_of_ne_zero (Ne.symm h))
  · have bit : (sampleAtCycle s 0).getLsbD k = (landed s.bus.landings (81 + k) 0 d).sp.getLsbD k := by
      refine Bool.eq_iff_iff.mpr ((has.sample_bit (by simp) (tableEntry s 0) hk).trans ?_)
      constructor
      · exact fun all => all 0 d rfl entry.symm
      · intro bitSet j e he _
        obtain ⟨rfl, rfl⟩ : j = 0 ∧ d = e := by simpa [List.getElem?_singleton] using he
        exact bitSet
    rw [bit, landed_sp _ (by omega), apply_ite (BitVec.getLsbD · k)]

end Sys2Proof.Machine
end

section
/-! CERTIFICATES. SAMPLE_ALL of reference devices (43_sampler.md; 60_exceptions.md). -/

namespace Sys2Proof.Machine

/-- Settles O49: with no landing the cycles leave every scratchpad as it is, and with landings each bit is read as the
scratchpad is by then. -/
theorem sampleOfPresentDevice : Obligations.SampleOfPresentDevice := by
  refine ⟨fun s ds population unscripted noLanding ne distinct => ?_, fun s d population unscripted one entry => ?_⟩
  · exact sampleAll_still ⟨⟨unscripted, population⟩, noLanding⟩ ne distinct
  · exact sampleAll_oneDevice ⟨unscripted, population⟩ one entry

/-- Settles O50: the devices that answer the resets drop out, and so every read of a vanished device is 1. -/
theorem vanishedDeviceReadsAllOnes : Obligations.VanishedDeviceReadsAllOnes := by
  intro s ds population unscripted ne
  have has : s.bus.Has ds := ⟨unscripted, population⟩
  obtain ⟨u, run, done⟩ := sampleAll_complete has ne
  refine ⟨_, _, run, done.trace.trans (List.append_assoc ..), done.tally.outcomes, fun i hi vanished => ?_⟩
  obtain ⟨es, here, roms⟩ := has.replay (cyclesEvents (s.table.toList.take i) s.bus)
  refine (done.stored i hi).trans (congrArg some (here.sample_vanished (ne_nil_of_roms ne roms) ?_))
  rw [roms]
  intro known
  obtain ⟨d, hd, same⟩ := List.mem_map.mp known
  exact vanished d hd same

end Sys2Proof.Machine
end

section
/-! SUPPORT. The two conversions as sign and magnitude, and the texts they render to (44_formatter.md). -/

namespace Sys2Proof.Machine

/-! ### A reading of sixteenths of a degree -/

/-- The reading of x sixteenths of a degree: the sign of x, and the whole degrees and sixteenths of its magnitude. -/
def readingOf (x : Int) : Reading :=
  { negative := decide (x < 0), whole := x.natAbs / 16, nib := x.natAbs % 16 }

/-- The reading of an integer is never a negative zero (44_formatter.md R210). -/
theorem readingOf_not_negativeZero (x : Int) :
    ¬((readingOf x).negative = true ∧ (readingOf x).whole = 0 ∧ (readingOf x).nib = 0) := by
  simp only [readingOf, decide_eq_true_eq]
  omega

/-- The tenths of a reading are within half a tenth of x sixteenths, and a tie goes away from zero: the tenths digit
rounds the magnitude, ties up (44_formatter.md R204). -/
theorem readingTenths_error (x : Int) :
    (0 ≤ x ∧ 10 * x - 7 ≤ 16 * readingTenths (readingOf x) ∧ 16 * readingTenths (readingOf x) ≤ 10 * x + 8) ∨
    (x < 0 ∧ 10 * x - 8 ≤ 16 * readingTenths (readingOf x) ∧ 16 * readingTenths (readingOf x) ≤ 10 * x + 7) := by
  simp only [readingTenths, readingOf, nearestTenth, decide_eq_true_eq]
  split <;> omega

/-- A nibble is a tie of the rounding to tenths at 4 and 12 only. -/
theorem nearestTenth_tie_iff {nib : Nat} (h : nib < 16) :
    16 * nearestTenth nib = 10 * nib + 8 ↔ nib = 4 ∨ nib = 12 := by
  rw [nearestTenth]
  omega

/-- The tenths of a reading are half a tenth off exactly at the ties. -/
theorem readingTenths_tie_iff (x : Int) :
    (16 * readingTenths (readingOf x) - 10 * x).natAbs = 8 ↔ (readingOf x).nib = 4 ∨ (readingOf x).nib = 12 := by
  have tie := nearestTenth_tie_iff (Nat.mod_lt x.natAbs (by omega : 16 > 0))
  simp only [readingTenths, readingOf, nearestTenth, decide_eq_true_eq] at tie ⊢
  rw [← tie]
  split <;> omega

/-! ### Celsius -/

theorem getLsbD_fifteen (raw : Half) : raw.getLsbD 15 = decide (raw.toInt < 0) := by
  rw [← BitVec.msb_eq_toInt, BitVec.msb_eq_getLsbD_last]

/-- The magnitude of a raw sample, as 44_formatter.md R202 has it. -/
theorem natAbs_toInt (raw : Half) :
    raw.toInt.natAbs = if raw.getLsbD 15 then (2 ^ 16 - raw.toNat) % 2 ^ 16 else raw.toNat := by
  have value := BitVec.toInt_eq_toNat_cond raw
  have bound := raw.isLt
  simp only [getLsbD_fifteen, decide_eq_true_eq]
  split <;> omega

/-- The two's complement of a negative raw sample is its magnitude, -2^15 included. -/
theorem toNat_twosComplement (raw : Half) :
    (if raw.getLsbD 15 then ~~~raw + 1 else raw).toNat = raw.toInt.natAbs := by
  rw [natAbs_toInt, apply_ite BitVec.toNat, ← BitVec.toNat_neg, BitVec.neg_eq_not_add]
  rfl

theorem celsius_eq (raw : Half) :
    celsius raw =
      { negative := raw.getLsbD 15, whole := raw.toInt.natAbs / 16 % 128, nib := raw.toInt.natAbs % 16 } := by
  simp only [celsius, BitVec.extractLsb'_toNat, toNat_twosComplement, Nat.shiftRight_eq_div_pow, Nat.pow_zero,
    Nat.div_one, Nat.reducePow]

/-- Below 128 degrees the seven bits hold the whole part. -/
theorem celsius_eq_readingOf {raw : Half} (h : raw.toInt.natAbs < 2048) : celsius raw = readingOf raw.toInt := by
  rw [celsius_eq, readingOf, getLsbD_fifteen, Nat.mod_eq_of_lt (by omega)]

/-- The readings are the 12-bit values, sign-extended (44_formatter.md R208). -/
theorem isReading_iff (raw : Half) : isReading raw = true ↔ -2048 ≤ raw.toInt ∧ raw.toInt < 2048 := by
  have value := BitVec.toInt_eq_toNat_cond raw
  have bound := raw.isLt
  simp only [isReading, decide_eq_true_eq, ← BitVec.toNat_inj, BitVec.extractLsb'_toNat, Nat.shiftRight_eq_div_pow,
    BitVec.ofNat_eq_ofNat, BitVec.toNat_ofNat]
  omega

/-! ### Fahrenheit -/

theorem fahrenheit_eq (raw : Half) : fahrenheit raw = readingOf (fahrenheitScaled raw) := by
  generalize hf : fahrenheitScaled raw = f
  simp only [fahrenheit, hf, readingOf]
  rcases lt_or_ge f 0 with negative | nonneg
  · rw [if_pos negative, ← Int.neg_tdiv, Int.tdiv_eq_ediv_of_nonneg (by omega), Reading.mk.injEq]
    exact ⟨(decide_eq_true negative).symm, by omega, by omega⟩
  · rw [if_neg (by omega), Int.tdiv_eq_ediv_of_nonneg nonneg, Reading.mk.injEq]
    exact ⟨(decide_eq_false (by omega)).symm, by omega, by omega⟩

/-- f is 9/5 of the Celsius value plus 512 sixteenths, with less than one sixteenth cut off: toward -67 °F, which is
-55 °C (44_formatter.md R203). -/
theorem fahrenheitScaled_bounds (raw : Half) :
    (-880 ≤ raw.toInt ∧ 5 * fahrenheitScaled raw ≤ 9 * raw.toInt + 2560 ∧
      9 * raw.toInt + 2560 ≤ 5 * fahrenheitScaled raw + 4) ∨
    (raw.toInt < -880 ∧ 9 * raw.toInt + 2560 ≤ 5 * fahrenheitScaled raw ∧
      5 * fahrenheitScaled raw ≤ 9 * raw.toInt + 2560 + 4) := by
  simp only [fahrenheitScaled, rawValue, Config.fOffsetC, Config.fMul, Config.fDiv, Config.fSub]
  rcases le_or_gt (-880) raw.toInt with above | below
  · rw [Int.tdiv_eq_ediv_of_nonneg (by omega)]
    omega
  · rw [← Int.neg_neg ((raw.toInt + 880) * 180), Int.neg_tdiv, Int.tdiv_eq_ediv_of_nonneg (by omega)]
    omega

/-- The whole part fits three digits between the bounds of 44_formatter.md R207 only. -/
theorem fahrenheit_overflow_iff (raw : Half) :
    1000 ≤ (fahrenheit raw).whole ↔ 8605 ≤ raw.toInt ∨ raw.toInt ≤ -9174 := by
  have bounds := fahrenheitScaled_bounds raw
  simp only [fahrenheit_eq, readingOf]
  omega

/-! ### Rendering -/

theorem ofNat_digitChar {n : Nat} (h : n < 10) : BitVec.ofNat 8 (Nat.digitChar n).toNat = digit n := by
  rw [Nat.toNat_digitChar_of_lt_ten h, BitVec.ofNat_add, digit]
  rfl

theorem digit_range {n : Nat} (h : n < 10) : 0x30 ≤ (digit n).toNat ∧ (digit n).toNat ≤ 0x39 := by
  simp only [digit, BitVec.ofNat_eq_ofNat, BitVec.toNat_add, BitVec.toNat_ofNat]
  omega

theorem fracDigit_lt (nib : Nat) : (Config.fracDigit[nib]?).getD 0 < 10 := by
  rcases lt_or_ge nib 16 with small | large
  · revert nib
    decide
  · simp [Vector.getElem?_eq_none large]

/-- `FRAC_DIGIT` rounds to the nearest tenth, ties up (44_formatter.md R204). -/
theorem tenths_eq_nearestTenth {nib : Nat} (h : nib < 16) : tenths nib = 0x30 + BitVec.ofNat 8 (nearestTenth nib) := by
  revert nib
  decide

/-- `Pad3` of a whole part that fits: the digits of weight 100 and 10 give way to the fill where they lead
(44_formatter.md R206). -/
theorem pad3_eq (fill : Byte) {w : Nat} (h : w < 1000) :
    pad3 fill w =
      [if 100 ≤ w then digit (w / 100) else fill, if 10 ≤ w then digit (w / 10 % 10) else fill, digit (w % 10)] := by
  have ones : BitVec.ofNat 8 (Nat.digitChar (w % 10)).toNat = digit (w % 10) := ofNat_digitChar (by omega)
  have tens : BitVec.ofNat 8 (Nat.digitChar (w / 10 % 10)).toNat = digit (w / 10 % 10) := ofNat_digitChar (by omega)
  rcases lt_or_ge w 10 with one | ten
  · rw [if_neg (by omega), if_neg (by omega), ← ones, Nat.mod_eq_of_lt one, pad3, Nat.toDigits_of_lt_base one]
    rfl
  rw [pad3, Nat.toDigits_of_base_le (by decide) ten, if_pos ten]
  rcases lt_or_ge w 100 with two | three
  · rw [if_neg (by omega), ← ones, ← tens, Nat.mod_eq_of_lt (a := w / 10) (by omega),
      Nat.toDigits_of_lt_base (by omega)]
    rfl
  · rw [if_pos three, ← ones, ← tens, ← ofNat_digitChar (n := w / 100) (by omega),
      Nat.toDigits_of_base_le (by decide) (by omega), Nat.div_div_eq_div_mul, Nat.toDigits_of_lt_base (by omega)]
    rfl

theorem render_eq_none {r : Reading} (h : 1000 ≤ r.whole) (pad : Pad) : render pad r = none := if_pos h

/-- A reading whose whole part fits renders to the text of its fields. -/
theorem exists_render_eq_some {r : Reading} (whole : r.whole < 1000) (nib : r.nib < 16) (pad : Pad) :
    ∃ txt, render pad r = some txt ∧ txt.toList = textOf (Pad.char pad) r.negative r.whole r.nib := by
  refine ⟨_, if_neg (by omega), ?_⟩
  rw [textOf, pad3_eq _ whole, tenths_eq_nearestTenth nib]
  rfl

theorem signChar_cases (negative : Bool) : signChar negative = 0x20 ∨ signChar negative = 0x2D := by
  cases negative
  · exact .inl rfl
  · exact .inr rfl

/-- A text that fits has a sign, a digit of weight 1, a point and a tenths digit in place (44_formatter.md R205). -/
theorem render_shape {pad : Pad} {r : Reading} {t : Text} (h : render pad r = some t) :
    t[4] = 0x2E ∧ (t[0] = 0x20 ∨ t[0] = 0x2D) ∧ (0x30 ≤ t[5].toNat ∧ t[5].toNat ≤ 0x39) ∧
      (0x30 ≤ t[3].toNat ∧ t[3].toNat ≤ 0x39) := by
  rw [render] at h
  split at h
  · cases h
  · cases h
    exact ⟨rfl, signChar_cases _, digit_range (fracDigit_lt _), digit_range (Nat.mod_lt _ (by omega))⟩

/-! ### FORMAT -/

theorem exec_format (u : TempUnit) (raw : Half) (s : State) :
    exec (.format u raw) s = .next (runFormat u raw (startOp .format (.format u raw) s)) :=
  exec_hostOp rfl s

/-- FORMAT of a value whose whole part fits completes with its text. -/
theorem exec_format_text {u : TempUnit} {raw : Half} {s : State} (h : raw ≠ s.params.sentinel)
    (whole : (convert u raw).whole < 1000) (nib : (convert u raw).nib < 16) :
    ∃ txt : Text,
      txt.toList = textOf (Pad.char s.params.pad) (convert u raw).negative (convert u raw).whole (convert u raw).nib ∧
      exec (.format u raw) s = .next { s with
        trace := s.trace ++ [.op .format], result := .text txt, seq := .idle } := by
  obtain ⟨txt, rendered, text⟩ := exists_render_eq_some whole nib s.params.pad
  refine ⟨txt, text, ?_⟩
  rw [exec_format, runFormat, startOp_params, if_neg h, rendered]
  rfl

/-- FORMAT of a value whose whole part does not fit completes with the next free text. -/
theorem exec_format_free {u : TempUnit} {raw : Half} {s : State} (h : raw ≠ s.params.sentinel)
    (whole : 1000 ≤ (convert u raw).whole) :
    exec (.format u raw) s = .next { s with
      trace := s.trace ++ [.op .format], result := .text (overflowText s), seq := .idle, free := s.free + 1 } := by
  rw [exec_format, runFormat, startOp_params, if_neg h, render_eq_none whole]
  rfl

theorem overflowText_ascii (s : State) : ∀ c ∈ (overflowText s).toList, c.toNat < 128 := by
  intro c hc
  rw [overflowText, Vector.toList_map] at hc
  obtain ⟨x, -, rfl⟩ := List.mem_map.mp hc
  exact (BitVec.toNat_setWidth 8 x ▸ Nat.mod_le ..).trans_lt x.isLt

end Sys2Proof.Machine
end

section
/-! CERTIFICATES. FORMAT (44_formatter.md). -/

namespace Sys2Proof.Machine

/-- Settles O52: FORMAT of the sentinel returns after the outcome. -/
theorem formatOfSentinel : Obligations.FormatOfSentinel := by
  intro u s
  rw [exec_format, runFormat, startOp_params, if_pos rfl, List.append_cons]
  rfl

/-- Settles O53: the bits 10..4 and 3..0 of the two's complement are those of the magnitude. -/
theorem formatCelsius : Obligations.FormatCelsius := by
  intro raw s h
  simp only [← natAbs_toInt]
  have text := exec_format_text (u := .celsius) h
  simp only [convert, celsius_eq] at text
  exact text (by omega) (by omega)

/-- Settles O54: below the overflow f renders as its sign and magnitude. -/
theorem formatFahrenheit : Obligations.FormatFahrenheit := by
  intro raw s h low high
  have fits : ¬1000 ≤ (fahrenheit raw).whole := by
    rw [fahrenheit_overflow_iff]
    omega
  have text := exec_format_text (u := .fahrenheit) h
  simp only [convert, fahrenheit_eq, readingOf] at text fits
  exact text (by omega) (by omega)

/-- Settles O55: seven bits hold the Celsius whole part, and the bounds of f give those of the Fahrenheit one. -/
theorem formatOverflow : Obligations.FormatOverflow := by
  intro raw
  refine ⟨?_, fahrenheit_overflow_iff raw, fun s h whole => ⟨_, overflowText_ascii s, exec_format_free h whole⟩⟩
  simp only [celsius_eq]
  omega

/-- Settles O56: a rendered text has a point where "------" has a hyphen. -/
theorem renderedTextShape : Obligations.RenderedTextShape := by
  intro pad u raw t rendered
  obtain ⟨point, sign, tenth, one⟩ := render_shape rendered
  refine ⟨point, sign, tenth, one, ?_⟩
  rintro rfl
  exact absurd point (by decide)

/-- Settles O57: an integer f has no negative zero, and a Celsius magnitude ends in eleven zeros where the raw value
does. -/
theorem negativeZero : Obligations.NegativeZero := by
  intro raw
  refine ⟨fahrenheit_eq raw ▸ readingOf_not_negativeZero _, ?_⟩
  rw [celsius_eq]
  refine and_congr_right fun negative => ?_
  rw [natAbs_toInt, if_pos negative, ← BitVec.toNat_inj, BitVec.extractLsb'_toNat]
  simp only [Nat.shiftRight_zero, BitVec.ofNat_eq_ofNat, BitVec.toNat_ofNat]
  omega

/-- Settles O58: the tenths round the magnitude to the nearest tenth, and f is cut off toward -67 °F. -/
theorem textAccuracy : Obligations.TextAccuracy := by
  intro raw reading notLowest
  obtain ⟨low, high⟩ := (isReading_iff raw).mp reading
  have notMin : raw.toInt ≠ -2048 := fun h => notLowest (BitVec.eq_of_toInt_eq h)
  have celsiusError := readingTenths_error raw.toInt
  have fahrenheitError := readingTenths_error (fahrenheitScaled raw)
  have scaled := fahrenheitScaled_bounds raw
  rw [celsius_eq_readingOf (by omega), fahrenheit_eq]
  exact ⟨by omega, readingTenths_tie_iff raw.toInt, by omega, by omega⟩

end Sys2Proof.Machine
end

section
/-! SUPPORT. That every step answers, a device in the slots of a Match ROM, and the outcomes at the end of DISCOVER_ALL
(60_exceptions.md). -/

namespace Sys2Proof.Machine

/-! ### Every step answers (60_exceptions.md R236) -/

theorem accept_answers (p : Packet) (s : State) : ∃ t, accept p s = .next t := by
  rw [accept]
  cases decode p with
  | error r => exact ⟨_, rfl⟩
  | ok i =>
    obtain ⟨t, run⟩ := exec_answers i s
    exact ⟨landReset s t, congrArg (landIn s) run⟩

theorem acceptStart_answers (q : Request) (s : State) : ∃ t, acceptStart q s = .next t := by
  rw [acceptStart]
  cases decoded : decode q.packet with
  | error r => exact ⟨_, rfl⟩
  | ok i =>
    obtain ⟨o, named⟩ := decode_request decoded
    simp only [named]
    exact ⟨_, rfl⟩

theorem idleStep_answers (s : State) : ∃ t, idleStep s = .next t := by
  rw [idleStep]
  cases s.agenda with
  | nil => exact ⟨_, rfl⟩
  | cons m rest =>
    cases m with
    | issue q | intrude q | frame b => exact accept_answers _ _
    | start q => exact acceptStart_answers _ _
    | blockReset | resetAfter | landConversion | landAfter | population => exact ⟨_, rfl⟩

/-- While BUSY no packet is taken up: the block goes on with what it performs, or a move is made. -/
theorem busyStep_answers (i : Instr) (pos : Pos) (s : State) : ∃ t, busyStep i pos s = .next t := by
  rw [busyStep]
  cases s.agenda with
  | nil => exact ⟨_, rfl⟩
  | cons m rest => cases m <;> exact ⟨_, rfl⟩

/-! ### A device in a Match ROM (60_exceptions.md R253) -/

/-- After the first k bits of an identifier, the device still matches exactly where its own bits are those. -/
theorem foldl_slot_matchBits {d : Device} (h : d.st = .matching 1) (id : Identifier) {k : Nat} (hk : k ≤ 64) :
    ((List.range k).map fun q => idBit id (q + 1)).foldl Device.slot d = { d with st := matchState id k d.rom } := by
  induction k with
  | zero =>
    have start : matchState id 0 d.rom = d.st := by simp [matchState, h]
    rw [start]
    rfl
  | succ k ih =>
    rw [List.range_succ, List.map_append, List.foldl_append, ih (by omega)]
    exact slot_matchBit (d := { d with st := matchState id k d.rom }) hk rfl

/-! ### The outcomes at the end of DISCOVER_ALL (42_enumerator.md R164) -/

/-- The loop test reads only `done` and `count` (42_enumerator.md R152). -/
theorem loopCond_congr {s t : State} (done : t.search.done = s.search.done) (count : t.count = s.count) :
    loopCond t = loopCond s := by
  rw [loopCond, loopCond, done, count]

theorem capacityEvents_of_room {s : State} (room : s.count.val < 5) : capacityEvents s = [] := by
  have notFull : s.count ≠ 5 := fun full => absurd room (by rw [full]; decide)
  simp [capacityEvents, capacityExceeded_eq, notFull]

theorem outcomes_capacityEvents (s : State) : outcomes (capacityEvents s) = [] ∨
    (outcomes (capacityEvents s) = [.capacityExceeded 5] ∧ s.count = 5) := by
  rw [capacityEvents]
  split
  · next exceeded =>
    rw [capacityExceeded_eq, Bool.and_eq_true, decide_eq_true_iff] at exceeded
    exact .inr ⟨rfl, exceeded.2⟩
  · exact .inl rfl

/-- After events fs without an outcome, the return raises none, or CAPACITY_EXCEEDED on a full table. -/
theorem discoverReturn_outcomes {s v : State} {fs : List Event} (appended : v.trace = s.trace ++ fs)
    (quiet : outcomes fs = []) :
    ∃ es, (discoverReturn v).trace = s.trace ++ es ∧ (outcomes es = [] ∨
      (outcomes es = [.capacityExceeded 5] ∧ (discoverReturn v).seq = .idle ∧ (discoverReturn v).count = 5 ∧
        (discoverReturn v).result = .count 5)) := by
  rw [discoverReturn_eq]
  refine ⟨fs ++ capacityEvents v, by simp only [appended, List.append_assoc], ?_⟩
  rw [outcomes_append, quiet, List.nil_append]
  exact (outcomes_capacityEvents v).imp_right fun ⟨raised, full⟩ => ⟨raised, rfl, full, by rw [full]; rfl⟩

/-- Where the table has room, BUS_ABSENT is the one outcome, and the return leaves all else but the result and the
sequencer as it was (42_enumerator.md R153). -/
theorem discoverReturn_busAbsent {s : State} (room : s.count.val < 5) : discoverReturn (raise .busAbsentDiscover s) =
    { s with trace := s.trace ++ [.oc .busAbsentDiscover], result := .count s.count.val, seq := .idle } := by
  rw [discoverReturn_eq, capacityEvents_of_room (s := raise .busAbsentDiscover s) room, List.append_nil]
  rfl

end Sys2Proof.Machine
end

section
/-! CERTIFICATES. Exceptions: outcomes, and what answers (60_exceptions.md). -/

namespace Sys2Proof.Machine

/-- Settles O38: a turn returns at the loop test, or makes a pass; a pass raises nothing in its frame, so its outcome is
that of the absent bus, of the failed pass, or of the return after it. -/
theorem outcomesOfOneTurn : Obligations.OutcomesOfOneTurn := by
  intro s
  cases hl : loopCond s with
  | false =>
    have turn : discoverTurn s = discoverReturn s := by rw [discoverTurn, hl]; rfl
    rw [turn]
    obtain ⟨es, appended, raised⟩ := discoverReturn_outcomes (List.append_nil s.trace).symm rfl
    exact ⟨es, appended, raised.imp_right fun full => .inr (.inr (.inr full))⟩
  | true =>
    have room := loopCond_count hl
    obtain ⟨es, r, u, rfl, -, hd, quiet, pass⟩ := discoverPass_cases s
    rw [discoverTurn_eq_discoverPass hl]
    have one (o : OutcomeEvent) : outcomes (es ++ [.oc o]) = [o] := by rw [outcomes_append, quiet]; rfl
    rcases pass with pass | ⟨o, fails, pass⟩ | ⟨-, pass⟩ <;> rw [pass]
    · rw [discoverReturn_busAbsent (s := onBus es { s with search := r }) room]
      exact ⟨_, List.append_assoc .., .inr (.inl ⟨one _, rfl, rfl, rfl, rfl, hd⟩)⟩
    · have goesOn : loopCond (passFailed (raise o (onBus es { s with search := r }))) = true := by
        rw [← hl]
        exact loopCond_congr hd rfl
      rw [discoverLoop_goesOn goesOn]
      refine ⟨_, List.append_assoc .., .inr (.inr ?_)⟩
      rcases fails with ⟨p, h1, h2, rfl⟩ | ⟨c, d, differ, rfl⟩
      · exact .inl ⟨p, h1, h2, one _, ⟨rfl, rfl, rfl⟩, rfl, rfl, hd⟩
      · exact .inr (.inl ⟨c, d, differ, one _, ⟨rfl, rfl, rfl⟩, rfl, rfl, hd⟩)
    · cases hv : loopCond (passSucceeded (onBus es { s with search := r })) with
      | true =>
        rw [discoverLoop_goesOn hv]
        exact ⟨es, rfl, .inl quiet⟩
      | false =>
        rw [discoverLoop_returns hv]
        obtain ⟨fs, appended, raised⟩ := discoverReturn_outcomes
          (s := s) (v := passSucceeded (onBus es { s with search := r })) rfl quiet
        exact ⟨fs, appended, raised.imp_right fun full => .inr (.inr (.inr full))⟩

/-- Settles O51: after all 64 bits the device matches exactly where its identifier is the one sent. -/
theorem matchSelectsOnlyItsDevice : Obligations.MatchSelectsOnlyItsDevice := by
  intro d id h
  rw [idBits_eq, foldl_slot_matchBits h id (le_refl 64), matchState_all, addressed]
  simp only [eq_comm]

/-- Settles O10: IDLE or BUSY, the step answers. -/
theorem everyStepAnswersNext : Obligations.EveryStepAnswersNext := by
  intro s
  rw [step, stepAgents]
  cases s.seq with
  | idle => exact idleStep_answers s
  | busy i pos => exact busyStep_answers i pos s

end Sys2Proof.Machine
end

section
/-! SUPPORT. The moves that the block does not let wait, what it performs in a step, and where a planned block reset
cuts that short (70_reset_and_hazards.md). -/

namespace Sys2Proof.Machine

/-! ### The moves that do not wait (60_exceptions.md R240, R255; 70_reset_and_hazards.md R270) -/

/-- What a move of the platform or a device does whether the block is IDLE or BUSY; none for a move that waits, or whose
word the block takes up or refuses (log 4). -/
def Move.atOnce : Move → Option (State → State)
  | .blockReset => some Sys2Proof.Machine.blockReset
  | .resetAfter k => some (planReset k)
  | .landConversion i => some (Sys2Proof.Machine.landConversion i)
  | .landAfter k i => some (planLanding k i)
  | .issue _ | .start _ | .intrude _ | .frame _ | .population _ => none

/-- Such a move is made as soon as it is first. -/
theorem step_atOnce {s : State} {m : Move} {rest : List Move} {f : State → State} (ha : s.agenda = m :: rest)
    (hm : m.atOnce = some f) : step s = .next (f { s with agenda := rest }) := by
  rw [← dropMove_of_agenda ha]
  cases hs : s.seq with
  | idle =>
    rw [step_of_idle hs, idleStep, ha]
    cases m with
    | blockReset | resetAfter | landConversion | landAfter => cases hm; rfl
    | issue | start | intrude | frame | population => cases hm
  | busy i pos =>
    rw [step_of_busy hs, busyStep, ha]
    cases m with
    | blockReset | resetAfter | landConversion | landAfter => cases hm; rfl
    | issue | start | intrude | frame | population => cases hm

/-! ### What the block performs -/

/-- While BUSY the block goes on, with no move to make or with one that waits (60_exceptions.md R240). -/
theorem step_goesOn {s : State} {i : Instr} {pos : Pos} (hs : s.seq = .busy i pos)
    (ha : s.agenda = [] ∨ ∃ m rest, s.agenda = m :: rest ∧ m.waits = true) :
    step s = .next (landReset s (goOn i pos s)) := by
  rw [step_of_busy hs, busyStep]
  rcases ha with ha | ⟨m, rest, ha, hm⟩ <;> rw [ha]
  · rfl
  · cases m with
    | issue | start | frame | population => rfl
    | intrude | blockReset | resetAfter | landConversion | landAfter => cases hm

/-- While IDLE the block records the start of the operation it stops at position 0 of (10_state.md R30). -/
theorem step_start {s : State} {q : Request} {rest : List Move} {i : Instr} {o : HostOp} (hi : s.seq = .idle)
    (ha : s.agenda = .start q :: rest) (hd : decode q.packet = .ok i) (ho : hostOpOf i = some o) :
    step s = .next (landReset { s with agenda := rest } (startOp o i { s with agenda := rest })) := by
  simp only [step_of_idle hi, idleStep, ha, dropMove_of_agenda ha, acceptStart, hd, ho, landIn]

/-- The step is what the block performs in it, with the block reset that lands in between. -/
theorem Performs.step_eq {s s₀ t : State} (h : Performs s s₀ t) : step s = .next (landReset s₀ t) := by
  rcases h with ⟨m, rest, p, i, hi, ha, hp, hn, hd, rfl, hx⟩ | ⟨rest, q, i, o, hi, ha, hd, ho, rfl, rfl⟩ |
    ⟨i, pos, hs, ha, rfl, rfl⟩
  · simp only [step_accept hi ha hp hn, accept, hd, hx, landIn]
  · exact step_start hi ha hd ho
  · exact step_goesOn hs ha

/-- Before it performs anything, the block at most takes a move off the agenda. -/
theorem Performs.exists_agenda {s s₀ t : State} (h : Performs s s₀ t) : ∃ rest, s₀ = { s with agenda := rest } := by
  rcases h with ⟨-, rest, -, -, -, -, -, -, -, rfl, -⟩ | ⟨rest, -, -, -, -, -, -, -, rfl, -⟩ | ⟨-, -, -, -, rfl, -⟩
  · exact ⟨rest, rfl⟩
  · exact ⟨rest, rfl⟩
  · exact ⟨s₀.agenda, rfl⟩

/-! ### Where a block reset lands (70_reset_and_hazards.md R270; log 13) -/

theorem landReset_of_due {s t : State} {k : Nat} (h : s.pendingReset = some k)
    (hk : k ≤ transactions (t.trace.drop s.trace.length)) : landReset s t = cutShort k s t := by
  simp only [landReset, h, if_pos hk]

theorem landReset_of_later {s t : State} {k : Nat} (h : s.pendingReset = some k)
    (hk : transactions (t.trace.drop s.trace.length) < k) :
    landReset s t = { t with pendingReset := some (k - transactions (t.trace.drop s.trace.length)) } := by
  simp only [landReset, h, if_neg (Nat.not_le.mpr hk)]

theorem getLast?_cons_ne {α : Type} {e x : α} {es : List α} (later : es.getLast? ≠ some x) (alone : es = [] → e ≠ x) :
    (e :: es).getLast? ≠ some x := by
  cases es with
  | nil => simpa using alone rfl
  | cons f fs => simpa using later

/-- Up to k transactions that are all there, an outcome is kept only where a transaction comes after it. -/
theorem uptoTransactions_getLast?_ne_outcome {k : Nat} {es : List Event} (h : k ≤ transactions es) (o : OutcomeEvent) :
    (uptoTransactions k es).getLast? ≠ some (.oc o) := by
  induction es generalizing k with
  | nil => simp [uptoTransactions]
  | cons e es ih =>
    cases k with
    | zero =>
      cases e with
      | op => exact getLast?_cons_ne (ih (Nat.zero_le _)) (by simp)
      | rst | w | r | oc => simp [uptoTransactions]
    | succ k =>
      have left : (if e.isTransaction then k else k + 1) ≤ transactions es := by
        cases he : e.isTransaction <;> simpa [transactions, he] using h
      rw [uptoTransactions]
      refine getLast?_cons_ne (ih left) ?_
      rintro nothing rfl
      have kept := transactions_uptoTransactions _ es left
      rw [nothing] at kept
      cases kept

end Sys2Proof.Machine
end

section
/-! CERTIFICATES. Resets and steps without a request (70_reset_and_hazards.md). -/

namespace Sys2Proof.Machine

/-- Settles O13: the step is what the block performs, with the reset landing in it; where it is due, what is kept are the
events up to the k-th transaction, and the bus is replayed from these. -/
theorem resetLandsAfterTransactions : Obligations.ResetLandsAfterTransactions := by
  refine ⟨fun s k rest ha => step_atOnce ha rfl, fun s s₀ t k hk performs => ?_⟩
  have run := performs.step_eq
  obtain ⟨rest, rfl⟩ := performs.exists_agenda
  constructor
  · exact fun later => run.trans (congrArg _ (landReset_of_later hk later))
  · exact fun due => ⟨_, _, run.trans (congrArg _ (landReset_of_due hk due)), uptoTransactions_prefix k _,
      transactions_uptoTransactions k _ due, uptoTransactions_getLast?_ne_outcome due,
      rfl, rfl, rfl, rfl, rfl, rfl, rfl, rfl, rfl, rfl⟩

/-- Settles O8: a BUSY block goes on at its loop test; a landing modifies one device of the population; the other moves
are what the model says of them. -/
theorem stepWithoutRequest : Obligations.StepWithoutRequest := by
  intro s
  refine ⟨fun hi ha => ?_, fun m rest hs ha hr => ?_, fun i rest ds f ha hp => ?_, fun k i rest ha => step_atOnce ha rfl,
    fun q rest hi ha => ?_⟩
  · rw [step_of_idle hi, idleStep, ha]
  · rw [step_goesOn hs (ha.imp_right fun ha => ⟨m, rest, ha⟩), landReset_of_none hr]
    rfl
  · have landed : step s = .next (landConversion i { s with agenda := rest }) := by
      rcases ha with ha | ha
      · exact step_atOnce ha rfl
      · exact (step_atOnce ha rfl).trans (congrArg _ (planLanding_zero i _))
    refine ⟨ds.modify i Device.land, ?_, List.length_modify .., fun j d hj => ?_⟩
    · simp only [landed, landConversion, hp, Population.land]
    · rw [List.getElem?_modify, hj]
      by_cases hji : j = i
      · simp [hji, Device.land, Device.reading]
      · simp [hji, Ne.symm hji]
  · rw [step_of_idle hi, idleStep, ha]
    exact congrArg Host.Outcome.next (congrArg (setPopulation q) (dropMove_of_agenda ha))

/-- Settles O11: the reset is made while IDLE or BUSY, and gives the fields their values. -/
theorem blockResetEffect : Obligations.BlockResetEffect :=
  fun _ _ ha => ⟨_, step_atOnce ha rfl, rfl, rfl, rfl, rfl, rfl, rfl, rfl, rfl, rfl, rfl⟩

end Sys2Proof.Machine
end
